-- ==== Sys2Proof/Word.lean ====
section
/-! DEFINITION. The widths of the machine (00_scope.md R4): a general register or memory byte is 8 bits, an
instruction word, `pc`, `index` and a stack entry are 16, a register number is 4, an address immediate 12. -/

namespace Sys2Proof

/-- A general register, a memory byte, a timer, the immediate `NN` (R4: REGW, TIMERW). -/
abbrev Byte := BitVec 8

/-- An instruction word, `pc`, `index`, a stack entry (R4: PCW, INDEXW, STACKW; R90). -/
abbrev Word := BitVec 16

/-- A nibble field of an instruction word: `X`, `Y`, `N4` (R91). -/
abbrev Nibble := BitVec 4

/-- The immediate `NNN` (R91). -/
abbrev Addr := BitVec 12

end Sys2Proof
end

