-- ==== Sys2Proof/Config.lean ====
section
/-! DEFINITION. The free values of the machine. FONT, the other open parameter of 00_scope.md R4, is held in
State (notes/assumptions/4.md). -/

namespace Sys2Proof

/-- RAND, the 8-bit draw of `CXNN` (41_register_alu.md R162, decision D8): the `k`-th draw of the machine is
`Config.rand k`. It has no body: nothing says which byte a draw is, and a claim holds whatever it is
(notes/assumptions/8.md). -/
opaque Config.rand : Nat → Byte

end Sys2Proof
end

