-- ==== Sys2Proof/Syntax.lean ====
section
/-! DEFINITION. The instructions: one constructor for each of the 34 rows of spec/opcode_table.json, in the
order of the table of 30_encoding.md R94. The operands are the fields of the row's format (R92), each at its
width (R91), so that a term of `Instr` holds no operand the encoding cannot hold. -/

namespace Sys2Proof

/-- An instruction. The comment of each constructor is its opcode pattern and the rule of its meaning. -/
inductive Instr where
  /-- `00E0`, 43_display.md R201 -/
  | cls
  /-- `00EE`, 40_dispatch_and_control.md R121 -/
  | ret
  /-- `1NNN`, R122 -/
  | jp (nnn : Addr)
  /-- `2NNN`, R123 -/
  | call (nnn : Addr)
  /-- `3XNN`, R124 -/
  | seImm (x : Nibble) (nn : Byte)
  /-- `4XNN`, R125 -/
  | sneImm (x : Nibble) (nn : Byte)
  /-- `5XY0`, R126 -/
  | seReg (x y : Nibble)
  /-- `6XNN`, 41_register_alu.md R151 -/
  | ldImm (x : Nibble) (nn : Byte)
  /-- `7XNN`, R152 -/
  | addImm (x : Nibble) (nn : Byte)
  /-- `8XY0`, R153 -/
  | ldReg (x y : Nibble)
  /-- `8XY1`, R154 -/
  | orReg (x y : Nibble)
  /-- `8XY2`, R155 -/
  | andReg (x y : Nibble)
  /-- `8XY3`, R156 -/
  | xorReg (x y : Nibble)
  /-- `8XY4`, R157 -/
  | addReg (x y : Nibble)
  /-- `8XY5`, R158 -/
  | subReg (x y : Nibble)
  /-- `8XY6`, R159 -/
  | shrReg (x y : Nibble)
  /-- `8XY7`, R160 -/
  | subnReg (x y : Nibble)
  /-- `8XYE`, R161 -/
  | shlReg (x y : Nibble)
  /-- `9XY0`, 40_dispatch_and_control.md R127 -/
  | sneReg (x y : Nibble)
  /-- `ANNN`, 42_index_memory.md R180 -/
  | ldIndex (nnn : Addr)
  /-- `BNNN`, 40_dispatch_and_control.md R128 -/
  | jpV0 (nnn : Addr)
  /-- `CXNN`, 41_register_alu.md R162 -/
  | rnd (x : Nibble) (nn : Byte)
  /-- `DXYN`, 43_display.md R202 -/
  | drw (x y n : Nibble)
  /-- `EX9E`, 44_timers_keys.md R224 -/
  | skp (x : Nibble)
  /-- `EXA1`, R225 -/
  | sknp (x : Nibble)
  /-- `FX07`, R220 -/
  | ldFromDelay (x : Nibble)
  /-- `FX0A`, R227 -/
  | ldKey (x : Nibble)
  /-- `FX15`, R221 -/
  | ldDelay (x : Nibble)
  /-- `FX18`, R222 -/
  | ldSound (x : Nibble)
  /-- `FX1E`, 42_index_memory.md R181 -/
  | addIndex (x : Nibble)
  /-- `FX29`, R182 -/
  | ldFont (x : Nibble)
  /-- `FX33`, R183 -/
  | bcd (x : Nibble)
  /-- `FX55`, R184 -/
  | storeRegs (x : Nibble)
  /-- `FX65`, R185 -/
  | loadRegs (x : Nibble)
  deriving DecidableEq, Repr

end Sys2Proof
end

