-- ==== Sys2Proof/WellFormed.lean ====
section
/-! DEFINITION. Well-formedness. The fields of `Instr` are exactly as wide as the fields of the encoding, so
every term of `Instr` is a well-formed instruction and nothing is left to check there ("opcode nibble fields
guarantee this structurally", 10_state.md R37). What can be ill-formed is a 16-bit WORD: 21582 of the 65536 are
(30_encoding.md R95). The check is the table of R94 itself: a word is well formed when it matches a row, by
`w & mask = match`, and it is written without the decoder, so that the two can be compared. -/

namespace Sys2Proof

/-- A row of the opcode map of R94: `w` is the instruction exactly when `w & mask = pattern`. -/
structure OpcodeRow where
  mask    : Word
  pattern : Word
  deriving DecidableEq, Repr

/-- Does the word match the row? (R94) -/
def OpcodeRow.covers (r : OpcodeRow) (w : Word) : Bool := w &&& r.mask == r.pattern

/-- The row of each instruction: the mask and match columns of R94. -/
def Instr.row : Instr → OpcodeRow
  | .cls           => ⟨0xFFFF#16, 0x00E0#16⟩
  | .ret           => ⟨0xFFFF#16, 0x00EE#16⟩
  | .jp _          => ⟨0xF000#16, 0x1000#16⟩
  | .call _        => ⟨0xF000#16, 0x2000#16⟩
  | .seImm _ _     => ⟨0xF000#16, 0x3000#16⟩
  | .sneImm _ _    => ⟨0xF000#16, 0x4000#16⟩
  | .seReg _ _     => ⟨0xF00F#16, 0x5000#16⟩
  | .ldImm _ _     => ⟨0xF000#16, 0x6000#16⟩
  | .addImm _ _    => ⟨0xF000#16, 0x7000#16⟩
  | .ldReg _ _     => ⟨0xF00F#16, 0x8000#16⟩
  | .orReg _ _     => ⟨0xF00F#16, 0x8001#16⟩
  | .andReg _ _    => ⟨0xF00F#16, 0x8002#16⟩
  | .xorReg _ _    => ⟨0xF00F#16, 0x8003#16⟩
  | .addReg _ _    => ⟨0xF00F#16, 0x8004#16⟩
  | .subReg _ _    => ⟨0xF00F#16, 0x8005#16⟩
  | .shrReg _ _    => ⟨0xF00F#16, 0x8006#16⟩
  | .subnReg _ _   => ⟨0xF00F#16, 0x8007#16⟩
  | .shlReg _ _    => ⟨0xF00F#16, 0x800E#16⟩
  | .sneReg _ _    => ⟨0xF00F#16, 0x9000#16⟩
  | .ldIndex _     => ⟨0xF000#16, 0xA000#16⟩
  | .jpV0 _        => ⟨0xF000#16, 0xB000#16⟩
  | .rnd _ _       => ⟨0xF000#16, 0xC000#16⟩
  | .drw _ _ _     => ⟨0xF000#16, 0xD000#16⟩
  | .skp _         => ⟨0xF0FF#16, 0xE09E#16⟩
  | .sknp _        => ⟨0xF0FF#16, 0xE0A1#16⟩
  | .ldFromDelay _ => ⟨0xF0FF#16, 0xF007#16⟩
  | .ldKey _       => ⟨0xF0FF#16, 0xF00A#16⟩
  | .ldDelay _     => ⟨0xF0FF#16, 0xF015#16⟩
  | .ldSound _     => ⟨0xF0FF#16, 0xF018#16⟩
  | .addIndex _    => ⟨0xF0FF#16, 0xF01E#16⟩
  | .ldFont _      => ⟨0xF0FF#16, 0xF029#16⟩
  | .bcd _         => ⟨0xF0FF#16, 0xF033#16⟩
  | .storeRegs _   => ⟨0xF0FF#16, 0xF055#16⟩
  | .loadRegs _    => ⟨0xF0FF#16, 0xF065#16⟩

/-- The 34 rows, in the order of R94 (the operands chosen here do not matter to `Instr.row`). -/
def opcodeTable : List OpcodeRow :=
  [Instr.cls, .ret, .jp 0, .call 0, .seImm 0 0, .sneImm 0 0, .seReg 0 0, .ldImm 0 0, .addImm 0 0,
   .ldReg 0 0, .orReg 0 0, .andReg 0 0, .xorReg 0 0, .addReg 0 0, .subReg 0 0, .shrReg 0 0,
   .subnReg 0 0, .shlReg 0 0, .sneReg 0 0, .ldIndex 0, .jpV0 0, .rnd 0 0, .drw 0 0 0, .skp 0,
   .sknp 0, .ldFromDelay 0, .ldKey 0, .ldDelay 0, .ldSound 0, .addIndex 0, .ldFont 0, .bcd 0,
   .storeRegs 0, .loadRegs 0].map Instr.row

/-- A word is well formed when some row of the table covers it (R94, R96). -/
def wordWellFormed (w : Word) : Bool := opcodeTable.any (·.covers w)

end Sys2Proof
end

