-- ==== Sys2Proof/Decode.lean ====
section
/-! DEFINITION. The decoder of 30_encoding.md R95, total on every word and on every list of bytes, and after it
the encoder, from the patterns of R94. Words are big-endian in memory (20_memory.md R63). -/

namespace Sys2Proof

/-- Why a word is no instruction: the two faults of R96. -/
inductive InvalidWord where
  /-- family 0x0, 0x8, 0xE or 0xF with a sub-opcode that selects nothing -/
  | unknownSubop
  /-- `5XYN` or `9XYN` with `N4` other than 0 -/
  | malformedLowNibble
  deriving DecidableEq, Repr

/-- Why a list of bytes decodes to no instruction. -/
inductive DecodeError where
  /-- fewer than two bytes: every instruction is exactly two (R90) -/
  | truncated
  /-- the two bytes are an invalid word (R96) -/
  | invalid (why : InvalidWord)
  deriving DecidableEq, Repr

/-! The fields of R91. -/

/-- `OP = w[15:12]`, the family. -/
def fieldOP (w : Word) : Nibble := w.extractLsb' 12 4
/-- `X = w[11:8]`. -/
def fieldX (w : Word) : Nibble := w.extractLsb' 8 4
/-- `Y = w[7:4]`. -/
def fieldY (w : Word) : Nibble := w.extractLsb' 4 4
/-- `N4 = w[3:0]`. -/
def fieldN4 (w : Word) : Nibble := w.extractLsb' 0 4
/-- `NN = w[7:0]`. -/
def fieldNN (w : Word) : Byte := w.extractLsb' 0 8
/-- `NNN = w[11:0]`. -/
def fieldNNN (w : Word) : Addr := w.extractLsb' 0 12

/-- Family 0x0 is matched on the whole word (R94, R95). -/
def decodeFamily0 (w : Word) : Except InvalidWord Instr :=
  if w = 0x00E0#16 then .ok .cls
  else if w = 0x00EE#16 then .ok .ret
  else .error .unknownSubop

/-- Family 0x8 is matched on the low nibble (R95). -/
def decodeFamily8 (x y n : Nibble) : Except InvalidWord Instr :=
  match n with
  | 0x0#4 => .ok (.ldReg x y)
  | 0x1#4 => .ok (.orReg x y)
  | 0x2#4 => .ok (.andReg x y)
  | 0x3#4 => .ok (.xorReg x y)
  | 0x4#4 => .ok (.addReg x y)
  | 0x5#4 => .ok (.subReg x y)
  | 0x6#4 => .ok (.shrReg x y)
  | 0x7#4 => .ok (.subnReg x y)
  | 0xE#4 => .ok (.shlReg x y)
  | _     => .error .unknownSubop

/-- Family 0xE is matched on the low byte (R95). -/
def decodeFamilyE (x : Nibble) (nn : Byte) : Except InvalidWord Instr :=
  match nn with
  | 0x9E#8 => .ok (.skp x)
  | 0xA1#8 => .ok (.sknp x)
  | _      => .error .unknownSubop

/-- Family 0xF is matched on the low byte (R95). -/
def decodeFamilyF (x : Nibble) (nn : Byte) : Except InvalidWord Instr :=
  match nn with
  | 0x07#8 => .ok (.ldFromDelay x)
  | 0x0A#8 => .ok (.ldKey x)
  | 0x15#8 => .ok (.ldDelay x)
  | 0x18#8 => .ok (.ldSound x)
  | 0x1E#8 => .ok (.addIndex x)
  | 0x29#8 => .ok (.ldFont x)
  | 0x33#8 => .ok (.bcd x)
  | 0x55#8 => .ok (.storeRegs x)
  | 0x65#8 => .ok (.loadRegs x)
  | _      => .error .unknownSubop

/-- The decode procedure of R95: every word is exactly one instruction or invalid by name. -/
def decodeWord (w : Word) : Except InvalidWord Instr :=
  match fieldOP w with
  | 0x0#4 => decodeFamily0 w
  | 0x1#4 => .ok (.jp (fieldNNN w))
  | 0x2#4 => .ok (.call (fieldNNN w))
  | 0x3#4 => .ok (.seImm (fieldX w) (fieldNN w))
  | 0x4#4 => .ok (.sneImm (fieldX w) (fieldNN w))
  | 0x5#4 => if fieldN4 w = 0x0#4 then .ok (.seReg (fieldX w) (fieldY w)) else .error .malformedLowNibble
  | 0x6#4 => .ok (.ldImm (fieldX w) (fieldNN w))
  | 0x7#4 => .ok (.addImm (fieldX w) (fieldNN w))
  | 0x8#4 => decodeFamily8 (fieldX w) (fieldY w) (fieldN4 w)
  | 0x9#4 => if fieldN4 w = 0x0#4 then .ok (.sneReg (fieldX w) (fieldY w)) else .error .malformedLowNibble
  | 0xA#4 => .ok (.ldIndex (fieldNNN w))
  | 0xB#4 => .ok (.jpV0 (fieldNNN w))
  | 0xC#4 => .ok (.rnd (fieldX w) (fieldNN w))
  | 0xD#4 => .ok (.drw (fieldX w) (fieldY w) (fieldN4 w))
  | 0xE#4 => decodeFamilyE (fieldX w) (fieldNN w)
  | _     => decodeFamilyF (fieldX w) (fieldNN w)

/-- The word of two bytes, the byte at the lower address first: `hi * 256 + lo` (R63). -/
def wordOfBytes (hi lo : Byte) : Word := hi ++ lo

/-- The byte of a word that stands at the lower address (R63). -/
def highByte (w : Word) : Byte := w.extractLsb' 8 8

/-- The byte of a word that stands at the higher address (R63). -/
def lowByte (w : Word) : Byte := w.extractLsb' 0 8

/-- Decode the first instruction of a list of bytes; the rest of the list comes back with it. -/
def decode : List Byte → Except DecodeError (Instr × List Byte)
  | hi :: lo :: rest =>
    match decodeWord (wordOfBytes hi lo) with
    | .ok i    => .ok (i, rest)
    | .error e => .error (.invalid e)
  | _ => .error .truncated

/-- The host's numbering of spec/opcode_table.json: the word is bits 15..0 of `w`, and bits at or above `nbits`
are 0. -/
def tableWord (nbits w : Nat) : Word := BitVec.ofNat 16 (w % 2 ^ nbits)

/-- The instruction the decoder reads from a table word laid out as memory holds it (R63). -/
def decodeTableWord (nbits w : Nat) : Option Instr :=
  match decode [highByte (tableWord nbits w), lowByte (tableWord nbits w)] with
  | .ok (i, _) => some i
  | .error _   => none

/-! The encoder. -/

/-- Format A: `OP`, `NNN` (R92). -/
def formatA (op : Nibble) (nnn : Addr) : Word := op ++ nnn
/-- Formats I and U: `OP`, `X`, `NN` (R92). -/
def formatI (op x : Nibble) (nn : Byte) : Word := op ++ x ++ nn
/-- Formats R and D: `OP`, `X`, `Y`, `N4` (R92). -/
def formatR (op x y n : Nibble) : Word := op ++ x ++ y ++ n

/-- The word of an instruction (R92, R94). -/
def encode : Instr → Word
  | .cls           => 0x00E0#16
  | .ret           => 0x00EE#16
  | .jp nnn        => formatA 0x1#4 nnn
  | .call nnn      => formatA 0x2#4 nnn
  | .seImm x nn    => formatI 0x3#4 x nn
  | .sneImm x nn   => formatI 0x4#4 x nn
  | .seReg x y     => formatR 0x5#4 x y 0x0#4
  | .ldImm x nn    => formatI 0x6#4 x nn
  | .addImm x nn   => formatI 0x7#4 x nn
  | .ldReg x y     => formatR 0x8#4 x y 0x0#4
  | .orReg x y     => formatR 0x8#4 x y 0x1#4
  | .andReg x y    => formatR 0x8#4 x y 0x2#4
  | .xorReg x y    => formatR 0x8#4 x y 0x3#4
  | .addReg x y    => formatR 0x8#4 x y 0x4#4
  | .subReg x y    => formatR 0x8#4 x y 0x5#4
  | .shrReg x y    => formatR 0x8#4 x y 0x6#4
  | .subnReg x y   => formatR 0x8#4 x y 0x7#4
  | .shlReg x y    => formatR 0x8#4 x y 0xE#4
  | .sneReg x y    => formatR 0x9#4 x y 0x0#4
  | .ldIndex nnn   => formatA 0xA#4 nnn
  | .jpV0 nnn      => formatA 0xB#4 nnn
  | .rnd x nn      => formatI 0xC#4 x nn
  | .drw x y n     => formatR 0xD#4 x y n
  | .skp x         => formatI 0xE#4 x 0x9E#8
  | .sknp x        => formatI 0xE#4 x 0xA1#8
  | .ldFromDelay x => formatI 0xF#4 x 0x07#8
  | .ldKey x       => formatI 0xF#4 x 0x0A#8
  | .ldDelay x     => formatI 0xF#4 x 0x15#8
  | .ldSound x     => formatI 0xF#4 x 0x18#8
  | .addIndex x    => formatI 0xF#4 x 0x1E#8
  | .ldFont x      => formatI 0xF#4 x 0x29#8
  | .bcd x         => formatI 0xF#4 x 0x33#8
  | .storeRegs x   => formatI 0xF#4 x 0x55#8
  | .loadRegs x    => formatI 0xF#4 x 0x65#8

/-- The two bytes of an instruction, in the order memory holds them (R63). -/
def encodeBytes (i : Instr) : List Byte := [highByte (encode i), lowByte (encode i)]

end Sys2Proof
end

