-- ==== Sys2Proof/Machine/Font.lean ====
section
/-! DEFINITION. The default contents of the parameter FONT (10_state.md R27): 16 glyphs of 5 bytes.
PRESUMED: the spec offers this table as the default and marks it as general knowledge; no rule depends on it
(notes/assumptions/4.md). -/

namespace Sys2Proof.Machine

/-- The parameter FONT: 80 bytes, glyph `g` at `5 * g` (R4, R26). -/
abbrev Font := Vector Byte 80

/-- The conventional table of R27, two glyphs a line. -/
def defaultFontBytes : List Byte :=
  [0xF0, 0x90, 0x90, 0x90, 0xF0] ++ [0x20, 0x60, 0x20, 0x20, 0x70] ++
  [0xF0, 0x10, 0xF0, 0x80, 0xF0] ++ [0xF0, 0x10, 0xF0, 0x10, 0xF0] ++
  [0x90, 0x90, 0xF0, 0x10, 0x10] ++ [0xF0, 0x80, 0xF0, 0x10, 0xF0] ++
  [0xF0, 0x80, 0xF0, 0x90, 0xF0] ++ [0xF0, 0x10, 0x20, 0x40, 0x40] ++
  [0xF0, 0x90, 0xF0, 0x90, 0xF0] ++ [0xF0, 0x90, 0xF0, 0x10, 0xF0] ++
  [0xF0, 0x90, 0xF0, 0x90, 0x90] ++ [0xE0, 0x90, 0xE0, 0x90, 0xE0] ++
  [0xF0, 0x80, 0x80, 0x80, 0xF0] ++ [0xE0, 0x90, 0x90, 0x90, 0xE0] ++
  [0xF0, 0x80, 0xF0, 0x80, 0xF0] ++ [0xF0, 0x80, 0xF0, 0x80, 0x80]

/-- FONT as State.reset takes it (R27's default). -/
def defaultFont : Font := ⟨defaultFontBytes.toArray, by decide⟩

end Sys2Proof.Machine
end

