-- ==== Sys2Proof/Machine/State.lean ====
section
/-! DEFINITION. The state of the machine, all of 10_state.md, as plain data, and its value after the initialize
operation (R39). INVENTORY.md, '## State', lists every field with its rule and reset value. -/

namespace Sys2Proof.Machine

/-- The 4096-byte memory (10_state.md R25, 20_memory.md R60) as a list of (address, byte): addresses strictly
rising, below 4096, and no entry equal to what an unlisted address reads as (`Memory.wf`, Ops.lean). -/
abbrev Memory := List Host.Cell

/-- 32 rows of 8 bytes, the most significant bit of a byte leftmost (10_state.md R28). -/
abbrev Display := Vector (Vector Byte 8) 32

/-- The type of a key event (10_state.md R30, R35). -/
inductive KeyKind where
  | pressed
  | released
  deriving DecidableEq, Repr

/-- The record `lastEvent` (10_state.md R30): `kind` is the spec's `type`. -/
structure LastEvent where
  valid : Bool
  kind  : KeyKind
  key   : Nibble
  deriving DecidableEq, Repr

/-- An entry of the report stream with its payload (60_exceptions.md R251). The two `Word`s of most are the
faulting `pc` and the instruction word `w`. -/
inductive Report where
  | stackOverflow (pc w : Word)
  | stackUnderflow (pc w : Word)
  | unknownSubop (pc w : Word)
  | malformedLowNibble (pc w : Word)
  | keyCodeRange (code : Byte)
  | memBounds (pc w index : Word) (n : Nat)
  | keyIndexRange (pc w : Word) (k : Byte)
  | pcBounds (pc : Word)
  deriving DecidableEq, Repr

/-- What `load` returns to the host (20_memory.md R79, 60_exceptions.md R266). -/
inductive LoadResult where
  | success
  | configurationError
  deriving DecidableEq, Repr

/-- One turn of the agenda: which agent takes the next step, with the input it consumes (00_scope.md R5,
10_state.md R35; notes/assumptions/5.md and 7.md). A turn whose agent has no enabled step changes nothing. -/
inductive Turn where
  /-- the executor takes the step it has, seeing the machine as running (R120, R230) -/
  | executor
  /-- the executor reads `running` and, where it is 0, ceases (R231, R293) -/
  | executorObservesStop
  /-- the tick agent takes a tick (R223) -/
  | tick
  /-- the tick agent reads `running` and, where it is 0, ceases with no tick (R293) -/
  | tickObservesStop
  /-- a key event of the external input layer (R228) -/
  | key (kind : KeyKind) (code : Byte)
  /-- the host operation initialize (R290) -/
  | initMachine
  /-- the host operation load (R79) -/
  | load (image : List Byte)
  /-- the host operation start (R291) -/
  | start
  /-- the host operation stop (R291) -/
  | stop
  deriving DecidableEq, Repr

/-- Why a step can stop with a fault. Every fault the spec describes is a NEXT state (60_exceptions.md R252,
R253); this type is for the model alone. -/
inductive Fault where
  /-- Raised by a meaning or the fetch when a memory primitive is called outside 0..4095, where R9 defines
  nothing. Safe: the machine stops. No rule does so ("No rule calls a primitive outside its domain", R9). -/
  | outsideMemory
  deriving DecidableEq, Repr

/-- Why a step can be refused. No instruction of the table is refused. -/
inductive Refusal where
  /-- Raised by exec's arm for an instruction that has no meaning yet. Safe. No arm of this model raises it. -/
  | notModelled (mnemonic : String)
  /-- Raised by the turn `initMachine` while the machine is not Stopped: no defined meaning (D28, U21). Safe. -/
  | initializeWhileNotStopped
  /-- Raised by the turn `load` while the machine is not Stopped: no defined meaning (D25, D28, U21). Safe. -/
  | loadWhileNotStopped
  /-- Raised by the turn `start` while the machine is not Stopped: no defined meaning (D28, U21). Safe. -/
  | startWhileNotStopped
  /-- Raised by the turn `stop` while the machine is not Running: no defined meaning (D28, U21). Safe. -/
  | stopWhileNotRunning
  deriving DecidableEq, Repr

/-- The machine state. -/
structure State where
  /-- V0..VF (R20) -/
  v : Vector Byte 16
  /-- the index register (R22) -/
  index : Word
  /-- the program counter (R23) -/
  pc : Word
  /-- the 48 stack entries (R24) -/
  stack : Vector Word 48
  /-- how many entries are in use (R24) -/
  stackSize : Fin 49
  /-- the memory (R25) -/
  mem : Memory
  /-- the parameter FONT (R27, R38); no step changes it -/
  font : Font
  /-- the display (R28) -/
  display : Display
  /-- the key flags (R29) -/
  keys : Vector Bool 16
  /-- the last valid key event (R30) -/
  lastEvent : LastEvent
  /-- key_wake (R30) -/
  keyWake : Bool
  /-- R31 -/
  delayTimer : Byte
  /-- R31 -/
  soundTimer : Byte
  /-- the lifecycle state: Running or Stopped (R32) -/
  running : Bool
  /-- exec_halted, set by PcBounds (R33) -/
  execHalted : Bool
  /-- `some x` while the executor is blocked in an `FX0A` whose destination is `V[x]` (R33) -/
  wait : Option Nibble
  /-- the report stream, oldest first (R34 (c)) -/
  reports : List Report
  /-- the number of FbUpdate() events emitted (R34 (b), R205) -/
  fbUpdates : Nat
  /-- what the last load returned (R79) -/
  loadResult : Option LoadResult
  /-- the sticky fault mark (R267) -/
  faultMark : Bool
  /-- the executor has not observed `running` = 0 since the last start (R293) -/
  executorActive : Bool
  /-- the tick agent has not ceased since the last start (R293) -/
  tickActive : Bool
  /-- how many RAND draws have been taken (R38, R162) -/
  draws : Nat
  /-- who moves next (R5, R38) -/
  agenda : List Turn
  deriving DecidableEq, Repr

/-- The machine after initialize at power-on (R39, R290). DESIGN CHOICE: the stack entries and the `kind` and
`key` of `lastEvent`, which the spec leaves unspecified and unread, are 0 and `released`
(notes/assumptions/1.md, 2.md); the model's own fields are at 0, none or empty (5.md, 7.md to 11.md). -/
def State.reset : State where
  v := Vector.replicate 16 0
  index := 0
  pc := 0x200
  stack := Vector.replicate 48 0
  stackSize := 0
  mem := []
  font := defaultFont
  display := Vector.replicate 32 (Vector.replicate 8 0)
  keys := Vector.replicate 16 false
  lastEvent := ⟨false, .released, 0⟩
  keyWake := false
  delayTimer := 0
  soundTimer := 0
  running := false
  execHalted := false
  wait := none
  reports := []
  fbUpdates := 0
  loadResult := none
  faultMark := false
  executorActive := false
  tickActive := false
  draws := 0
  agenda := []

end Sys2Proof.Machine
end

