-- ==== Sys2Proof/Machine/Ops.lean ====
section
/-! DEFINITION. The named operations over memory, pc, stack and reports. Registers are in Operands.lean. -/

namespace Sys2Proof.Machine

/-! ## Memory (10_state.md R25, 20_memory.md) -/

/-- The number of bytes of memory (R4: MEMSIZE). -/
abbrev memSize : Nat := 4096

/-- What an unlisted address reads as: the reset contents, FONT at 0x000..0x04F and 0 above (R25). -/
def Memory.background (font : Font) (a : Nat) : Byte :=
  if h : a < 80 then font[a] else 0

/-- The listed byte at an address. -/
def Memory.lookup (m : Memory) (a : Nat) : Option Byte :=
  match m with
  | [] => none
  | (k, b) :: rest => if k = a then some b else Memory.lookup rest a

/-- The list without its entry at an address. -/
def Memory.erase (m : Memory) (a : Nat) : Memory := m.filter fun c => c.1 != a

/-- The list with an entry put in front of the first higher address. -/
def Memory.insert (m : Memory) (a : Nat) (b : Byte) : Memory :=
  match m with
  | [] => [(a, b)]
  | (k, c) :: rest => if a < k then (a, b) :: (k, c) :: rest else (k, c) :: Memory.insert rest a b

/-- MemRead(a, 1) of R9: defined only for `a` in 0..4095. -/
def Memory.read (font : Font) (m : Memory) (a : Nat) : Option Byte :=
  if a < memSize then some ((m.lookup a).getD (Memory.background font a)) else none

/-- MemWrite(a, 1, b) of R9: defined only for `a` in 0..4095. Writing what an unlisted address reads as removes
the entry. -/
def Memory.write (font : Font) (m : Memory) (a : Nat) (b : Byte) : Option Memory :=
  if a < memSize then
    some (if b = Memory.background font a then Memory.erase m a else Memory.insert (Memory.erase m a) a b)
  else none

/-- Every address of the list is at least `low`, the addresses rise, and no entry is an unlisted value. -/
def Memory.wfFrom (font : Font) (low : Nat) (m : Memory) : Bool :=
  match m with
  | [] => true
  | (a, b) :: rest =>
    decide (low ≤ a) && decide (a < memSize) && b != Memory.background font a &&
      Memory.wfFrom font (a + 1) rest

/-- The canonical form of a memory list. -/
def Memory.wf (font : Font) (m : Memory) : Bool := Memory.wfFrom font 0 m

/-- MemRead(a, 1) (R9). -/
def State.readByte (s : State) (a : Nat) : Option Byte := Memory.read s.font s.mem a

/-- The `n` bytes at `a`, `a + 1`, ..., in ascending order (R64). -/
def State.readBytes (s : State) (a : Nat) : Nat → Option (List Byte)
  | 0 => some []
  | n + 1 =>
    match s.readByte a, State.readBytes s (a + 1) n with
    | some b, some bs => some (b :: bs)
    | _, _ => none

/-- MemRead(a, 2), big-endian (R9, R63). -/
def State.readWord (s : State) (a : Nat) : Option Word :=
  match s.readByte a, s.readByte (a + 1) with
  | some hi, some lo => some (wordOfBytes hi lo)
  | _, _ => none

/-- Store bytes at `a`, `a + 1`, ..., in ascending order (R64), into the memory list. -/
def Memory.writeBytes (font : Font) (m : Memory) (a : Nat) : List Byte → Option Memory
  | [] => some m
  | b :: bs =>
    match Memory.write font m a b with
    | some m' => Memory.writeBytes font m' (a + 1) bs
    | none => none

/-- The machine with another memory list. -/
def State.setMem (s : State) (m : Memory) : State := { s with mem := m }

/-- Store bytes at `a`, `a + 1`, ..., in ascending order (R64). -/
def State.writeBytes (s : State) (a : Nat) (bs : List Byte) : Option State :=
  match Memory.writeBytes s.font s.mem a bs with
  | some m => some (s.setMem m)
  | none => none

/-! ## Other named updates -/

/-- Another register file (R20). -/
def State.setRegs (s : State) (v : Vector Byte 16) : State := { s with v := v }

/-- Another stack (R24). -/
def State.setStack (s : State) (stack : Vector Word 48) (size : Fin 49) : State :=
  { s with stack := stack, stackSize := size }

/-- Other key flags (R29). -/
def State.setKeys (s : State) (keys : Vector Bool 16) : State := { s with keys := keys }

/-- `lastEvent <- e` (R30). -/
def State.setLastEvent (s : State) (e : LastEvent) : State := { s with lastEvent := e }

/-- `running <- c` (R32). -/
def State.setRunning (s : State) (c : Bool) : State := { s with running := c }

/-- The executor has ceased, or has steps again (R293). -/
def State.setExecutorActive (s : State) (c : Bool) : State := { s with executorActive := c }

/-- The tick agent has ceased, or has steps again (R293). -/
def State.setTickActive (s : State) (c : Bool) : State := { s with tickActive := c }

/-- What the last load returned (R79). -/
def State.setLoadResult (s : State) (r : LoadResult) : State := { s with loadResult := some r }

/-- The inputs still to come (R35). -/
def State.setAgenda (s : State) (rest : List Turn) : State := { s with agenda := rest }

/-! ## The program counter (10_state.md R23) -/

/-- `pc <- target`. -/
def State.setPc (s : State) (target : Word) : State := { s with pc := target }

/-- `pc <- pc + 2`. -/
def State.advance (s : State) : State := s.setPc (s.pc + 2)

/-- The skip of R124 to R127, R224, R225: `pc + 4` if the condition holds, else `pc + 2`. -/
def State.skipIf (s : State) (c : Bool) : State := s.setPc (if c then s.pc + 4 else s.pc + 2)

/-! ## The stack (10_state.md R24) -/

/-- Push, where the stack is not full. -/
def State.push (s : State) (x : Word) : Option State :=
  if h : s.stackSize.val < 48 then
    some (s.setStack (s.stack.set s.stackSize.val x h) ⟨s.stackSize.val + 1, Nat.succ_lt_succ h⟩)
  else none

/-- Pop, where the stack is not empty: the popped value and the machine after. The slot keeps its value. -/
def State.pop (s : State) : Option (Word × State) :=
  if h : s.stackSize.val = 0 then none
  else
    some (s.stack[s.stackSize.val - 1]'(by omega), s.setStack s.stack ⟨s.stackSize.val - 1, by omega⟩)

/-! ## Outputs and faults (00_scope.md R10, R11; 60_exceptions.md) -/

/-- The code of a report (R251). -/
def Report.code : Report → Nat
  | .stackOverflow ..      => 1
  | .stackUnderflow ..     => 2
  | .unknownSubop ..       => 3
  | .malformedLowNibble .. => 4
  | .keyCodeRange ..       => 5
  | .memBounds ..          => 6
  | .keyIndexRange ..      => 7
  | .pcBounds ..           => 8

/-- Does the report set the sticky fault mark? Codes 1 to 4 and 6 to 8 do (R267). -/
def Report.marks (r : Report) : Bool := r.code != 5

/-- Is it the fatal fault? (R251, R253) -/
def Report.fatal (r : Report) : Bool := r.code == 8

/-- `pc` after the fault (the table of R252; R253 for PcBounds, R228 for KeyCodeRange). -/
def Report.pcAfter (r : Report) (pc : Word) : Word :=
  match r with
  | .unknownSubop ..       => pc + 2
  | .malformedLowNibble .. => pc + 2
  | .memBounds ..          => pc + 2
  | .keyIndexRange ..      => pc + 2
  | .stackUnderflow ..     => pc
  | .stackOverflow ..      => pc
  | .keyCodeRange ..       => pc
  | .pcBounds ..           => pc

/-- Report(code, info): one entry at the end of the report stream (R11), and the fault mark of R267. -/
def State.report (s : State) (r : Report) : State :=
  { s with reports := s.reports ++ [r], faultMark := s.faultMark || r.marks }

/-- Taking a fault, the ONE operation for all of them: R252 for a recoverable fault, R253 for the fatal one.
It is applied to the state the instruction began in, so every write of the instruction is suppressed. Nothing is
saved and no handler runs (R254); there is no return from it (R256). -/
def State.raise (s : State) (r : Report) : State :=
  { (s.report r).setPc (r.pcAfter s.pc) with execHalted := s.execHalted || r.fatal }

/-- FbUpdate() (R11, 43_display.md R205). -/
def State.fbUpdate (s : State) : State := { s with fbUpdates := s.fbUpdates + 1 }

/-- The report of an invalid word (40_dispatch_and_control.md R120, R96). -/
def reportInvalid (e : InvalidWord) (pc w : Word) : Report :=
  match e with
  | .unknownSubop       => .unknownSubop pc w
  | .malformedLowNibble => .malformedLowNibble pc w

/-- One more RAND draw has been taken (R162). -/
def State.countDraw (s : State) : State := { s with draws := s.draws + 1 }

/-- The machine made ready for its executor to fetch word `w` next: Running, with no wait, no halt and no agent
ahead of the executor, and the word at `pc` (at 0x200 where no word can be fetched at `pc`, R67). -/
def State.placeWord (s : State) (w : Word) : State :=
  let at_ : Word := if s.pc.toNat ≤ 4094 then s.pc else 0x200
  { s with
    pc := at_
    mem := (Memory.writeBytes s.font s.mem at_.toNat [highByte w, lowByte w]).getD s.mem
    running := true
    executorActive := true
    tickActive := true
    execHalted := false
    wait := none
    agenda := [] }

end Sys2Proof.Machine
end

