-- ==== Sys2Proof/Machine/Operands.lean ====
section
/-! DEFINITION. The operand forms: a register named by a nibble (R20, R93), the zero-extended immediate `NNN`
(R93), the register block V0..VX (R184, R185), the bytes at `index` (R66, R186) and a key named by a register
(R226). -/

namespace Sys2Proof.Machine

/-- `V[x]` (R8, R20). -/
def State.reg (s : State) (x : Nibble) : Byte := s.v[x.toNat]'x.isLt

/-- `V[x] <- b` (R8, R20). -/
def State.setReg (s : State) (x : Nibble) (b : Byte) : State := { s with v := s.v.set x.toNat b x.isLt }

/-- `zext_16(NNN)` (R93). -/
def zext16 (nnn : Addr) : Word := nnn.setWidth 16

/-- `index <- a` (R22). -/
def State.setIndex (s : State) (a : Word) : State := { s with index := a }

/-- The number of registers `FX55` and `FX65` move: `X + 1` (R184, R185). -/
abbrev blockLength (x : Nibble) : Nat := x.toNat + 1

/-- V0..VX, V0 first (R184). -/
def State.regBlock (s : State) (x : Nibble) : List Byte :=
  (List.range (blockLength x)).map fun k => s.reg (BitVec.ofNat 4 k)

/-- `V[k] <- bs[0]`, `V[k + 1] <- bs[1]`, ..., ascending (R185). -/
def State.setRegsFrom (s : State) (k : Nat) : List Byte → State
  | [] => s
  | b :: bs => State.setRegsFrom (s.setReg (BitVec.ofNat 4 k) b) (k + 1) bs

/-- The bounds rule of R66 for `n` bytes at `index`, in unbounded integers; a zero-length access is never
checked. -/
def State.dataInBounds (s : State) (n : Nat) : Bool := n == 0 || decide (s.index.toNat + n ≤ memSize)

/-- `keys[k]` where `k` is the index of a key, else nothing (R226). -/
def State.keyAt (s : State) (k : Byte) : Option Bool :=
  if h : k.toNat < 16 then some s.keys[k.toNat] else none

/-- The decimal digits of a byte, hundreds first (R183). -/
def bcdDigits (b : Byte) : List Byte :=
  [BitVec.ofNat 8 (b.toNat / 100), BitVec.ofNat 8 (b.toNat / 10 % 10), BitVec.ofNat 8 (b.toNat % 10)]

end Sys2Proof.Machine
end

