-- ==== Sys2Proof/Machine/Flags.lean ====
section
/-! DEFINITION. Every flag computation: the value VF receives, 0 or 1 (10_state.md R21), from the original
operands, and the order of the two writes (41_register_alu.md R150). -/

namespace Sys2Proof.Machine

/-- The index of the flag register VF (R4: FLAGREG). -/
abbrev flagReg : Nibble := 0xF#4

/-- 1 or 0 as the flag register holds it (R21). -/
def flagByte (c : Bool) : Byte := if c then 1 else 0

/-- `8XY4`: 1 iff `a + b > 255` (R157). -/
def carryFlag (a b : Byte) : Byte := flagByte (decide (a.toNat + b.toNat > 255))

/-- `8XY5`, `8XY7`: 1 iff the minuend is at least the subtrahend (R158, R160). -/
def noBorrowFlag (minuend subtrahend : Byte) : Byte := flagByte (decide (minuend.toNat ≥ subtrahend.toNat))

/-- `8XY6`: the bit shifted out, `b & 1` (R159). -/
def shrFlag (b : Byte) : Byte := b &&& 1#8

/-- `8XYE`: the bit shifted out, `b >> 7` (R161). -/
def shlFlag (b : Byte) : Byte := b >>> 7

/-- `V[0xF] <- flag` (R21). -/
def State.setFlag (s : State) (flag : Byte) : State := s.setReg flagReg flag

/-- The end of an ALU instruction without flag: the result to `V[x]`, `pc + 2`. -/
def State.finish (s : State) (x : Nibble) (result : Byte) : State := (s.setReg x result).advance

/-- The end of a flag-writing ALU instruction: the result to `V[x]`, then the flag to VF, `pc + 2` (R150: with
`x` = 0xF the flag is what remains). -/
def State.finishWithFlag (s : State) (x : Nibble) (result flag : Byte) : State :=
  ((s.setReg x result).setFlag flag).advance

end Sys2Proof.Machine
end

