-- ==== Sys2Proof/Machine/Alu.lean ====
section
/-! DEFINITION. The register file and ALU instructions (41_register_alu.md R151 to R162). Operands are read
before anything is written, and the flag is written last (R150). -/

namespace Sys2Proof.Machine

/-- `6XNN` (R151). -/
def execLdImm (x : Nibble) (nn : Byte) (s : State) : Host.Outcome State Fault Refusal :=
  .next (s.finish x nn)

/-- `7XNN` (R152): no flag. -/
def execAddImm (x : Nibble) (nn : Byte) (s : State) : Host.Outcome State Fault Refusal :=
  .next (s.finish x (s.reg x + nn))

/-- `8XY0` (R153). -/
def execLdReg (x y : Nibble) (s : State) : Host.Outcome State Fault Refusal :=
  .next (s.finish x (s.reg y))

/-- `8XY1` (R154): VF unchanged. -/
def execOrReg (x y : Nibble) (s : State) : Host.Outcome State Fault Refusal :=
  .next (s.finish x (s.reg x ||| s.reg y))

/-- `8XY2` (R155): VF unchanged. -/
def execAndReg (x y : Nibble) (s : State) : Host.Outcome State Fault Refusal :=
  .next (s.finish x (s.reg x &&& s.reg y))

/-- `8XY3` (R156): VF unchanged. -/
def execXorReg (x y : Nibble) (s : State) : Host.Outcome State Fault Refusal :=
  .next (s.finish x (s.reg x ^^^ s.reg y))

/-- `8XY4` (R157). -/
def execAddReg (x y : Nibble) (s : State) : Host.Outcome State Fault Refusal :=
  .next (s.finishWithFlag x (s.reg x + s.reg y) (carryFlag (s.reg x) (s.reg y)))

/-- `8XY5` (R158). -/
def execSubReg (x y : Nibble) (s : State) : Host.Outcome State Fault Refusal :=
  .next (s.finishWithFlag x (s.reg x - s.reg y) (noBorrowFlag (s.reg x) (s.reg y)))

/-- `8XY6` (R159): the source is `V[y]`. -/
def execShrReg (x y : Nibble) (s : State) : Host.Outcome State Fault Refusal :=
  .next (s.finishWithFlag x (s.reg y >>> 1) (shrFlag (s.reg y)))

/-- `8XY7` (R160): the minuend is `V[y]`. -/
def execSubnReg (x y : Nibble) (s : State) : Host.Outcome State Fault Refusal :=
  .next (s.finishWithFlag x (s.reg y - s.reg x) (noBorrowFlag (s.reg y) (s.reg x)))

/-- `8XYE` (R161): the source is `V[y]`. -/
def execShlReg (x y : Nibble) (s : State) : Host.Outcome State Fault Refusal :=
  .next (s.finishWithFlag x (s.reg y <<< 1) (shlFlag (s.reg y)))

/-- `CXNN` (R162): a fresh draw, a free value, masked with `nn`. -/
def execRnd (x : Nibble) (nn : Byte) (s : State) : Host.Outcome State Fault Refusal :=
  .next (s.countDraw.finish x (Config.rand s.draws &&& nn))

end Sys2Proof.Machine
end

