-- ==== Sys2Proof/Machine/IndexMemory.lean ====
section
/-! DEFINITION. The index register and memory instructions (42_index_memory.md R180 to R185). -/

namespace Sys2Proof.Machine

/-- `ANNN` (R180). -/
def execLdIndex (nnn : Addr) (s : State) : Host.Outcome State Fault Refusal :=
  .next (s.setIndex (zext16 nnn)).advance

/-- `FX1E` (R181): modulo 65536, no flag, no bounds check. -/
def execAddIndex (x : Nibble) (s : State) : Host.Outcome State Fault Refusal :=
  .next (s.setIndex (s.index + (s.reg x).setWidth 16)).advance

/-- `FX29` (R182): the whole byte times 5. -/
def execLdFont (x : Nibble) (s : State) : Host.Outcome State Fault Refusal :=
  .next (s.setIndex ((s.reg x).setWidth 16 * 5#16)).advance

/-- Storing the bytes `bs` at `index` for the instruction word `w`: the check of R66, then the bytes. The rest of
the instruction is `after`. -/
def State.storeAtIndex (s : State) (w : Word) (bs : List Byte) (after : State → State) :
    Host.Outcome State Fault Refusal :=
  if s.dataInBounds bs.length then
    match s.writeBytes s.index.toNat bs with
    | some t => .next (after t)
    | none => .fault .outsideMemory
  else .next (s.raise (.memBounds s.pc w s.index bs.length))

/-- Loading `n` bytes at `index` for the instruction word `w`: the check of R66, then the bytes. The rest of the
instruction is `after`. -/
def State.loadAtIndex (s : State) (w : Word) (n : Nat) (after : List Byte → State) :
    Host.Outcome State Fault Refusal :=
  if s.dataInBounds n then
    match s.readBytes s.index.toNat n with
    | some bs => .next (after bs)
    | none => .fault .outsideMemory
  else .next (s.raise (.memBounds s.pc w s.index n))

/-- `index <- index + X + 1` (R184, R185), modulo 65536 (D9). -/
def State.bumpIndex (s : State) (x : Nibble) : State := s.setIndex (s.index + BitVec.ofNat 16 (blockLength x))

/-- `FX33` (R183): `index` is not changed. -/
def execBcd (x : Nibble) (s : State) : Host.Outcome State Fault Refusal :=
  s.storeAtIndex (encode (.bcd x)) (bcdDigits (s.reg x)) fun t => t.advance

/-- `FX55` (R184). -/
def execStoreRegs (x : Nibble) (s : State) : Host.Outcome State Fault Refusal :=
  s.storeAtIndex (encode (.storeRegs x)) (s.regBlock x) fun t => (t.bumpIndex x).advance

/-- `FX65` (R185). -/
def execLoadRegs (x : Nibble) (s : State) : Host.Outcome State Fault Refusal :=
  s.loadAtIndex (encode (.loadRegs x)) (blockLength x) fun bs => ((s.setRegsFrom 0 bs).bumpIndex x).advance

end Sys2Proof.Machine
end

