-- ==== Sys2Proof/Machine/Display.lean ====
section
/-! DEFINITION. The display, its XOR-blit engine and its two instructions (43_display.md). -/

namespace Sys2Proof.Machine

/-- A row number, modulo 32 (R202). -/
def rowOf (n : Nat) : Fin 32 := ⟨n % 32, Nat.mod_lt n (by decide)⟩

/-- A byte column, modulo 8 (R203: byte 7 wraps to byte 0). -/
def byteColOf (n : Nat) : Fin 8 := ⟨n % 8, Nat.mod_lt n (by decide)⟩

/-- `display[r][c]`. -/
def Display.byte (d : Display) (r : Fin 32) (c : Fin 8) : Byte := (d[r])[c]

/-- `display[r][c] <- b`. -/
def Display.setByte (d : Display) (r : Fin 32) (c : Fin 8) (b : Byte) : Display :=
  d.set r ((d[r]).set c b)

/-- The display with every byte 0 (R201). -/
def Display.blank : Display := Vector.replicate 32 (Vector.replicate 8 0)

/-- The pixel at column `px` of row `r`: bit `7 - (px mod 8)` of byte `px div 8` (R200). -/
def Display.pixel (d : Display) (px : Fin 64) (r : Fin 32) : Bool :=
  (d.byte r (byteColOf (px.val / 8))).getLsbD (7 - px.val % 8)

/-- A pixel of the machine's display (R200). -/
def State.pixel (s : State) (px : Fin 64) (r : Fin 32) : Bool := Display.pixel s.display px r

/-- The framebuffer view: 256 bytes in row order, then byte order (R205, R34 (a)). -/
def State.framebuffer (s : State) : List Byte := s.display.toList.flatMap Vector.toList

/-- `display <- d`. -/
def State.setDisplay (s : State) (d : Display) : State := { s with display := d }

/-- BlitRow(r, x, b) (R203): the display after, and whether a set pixel was cleared. -/
def blitRow (d : Display) (r : Fin 32) (x : Nat) (b : Byte) : Display × Bool :=
  let c := byteColOf (x / 8)
  let sh := x % 8
  if sh = 0 then
    let old0 := Display.byte d r c
    (Display.setByte d r c (old0 ^^^ b), old0 &&& b != 0)
  else
    let c1 := byteColOf (c.val + 1)
    let p0 := b >>> sh
    let p1 := b <<< (8 - sh)
    let old0 := Display.byte d r c
    let old1 := Display.byte d r c1
    (Display.setByte (Display.setByte d r c (old0 ^^^ p0)) r c1 (old1 ^^^ p1),
      (old0 &&& p0) ||| (old1 &&& p1) != 0)

/-- The row loop of R202, from row `y` with the flag so far: every row overwrites the flag. -/
def drawRows (d : Display) (x y : Nat) (flag : Byte) : List Byte → Display × Byte
  | [] => (d, flag)
  | b :: bs =>
    drawRows (blitRow d (rowOf y) x b).1 x (y + 1) (flagByte (blitRow d (rowOf y) x b).2) bs

/-- `00E0` (R201). -/
def execCls (s : State) : Host.Outcome State Fault Refusal :=
  .next (s.setDisplay Display.blank).fbUpdate.advance

/-- The end of `DXYN` once the sprite bytes are read (R202): the display, the flag, FbUpdate where a row was
drawn, `pc + 2`. -/
def State.drawSprite (s : State) (x y : Nibble) (sprite : List Byte) : State :=
  let drawn := drawRows s.display ((s.reg x).toNat % 64) ((s.reg y).toNat % 32) (s.reg flagReg) sprite
  let t := (s.setDisplay drawn.1).setFlag drawn.2
  (if sprite.isEmpty then t else t.fbUpdate).advance

/-- `DXYN` (R202). -/
def execDrw (x y n : Nibble) (s : State) : Host.Outcome State Fault Refusal :=
  s.loadAtIndex (encode (.drw x y n)) n.toNat fun sprite => s.drawSprite x y sprite

end Sys2Proof.Machine
end

