-- ==== Sys2Proof/Machine/TimersKeys.lean ====
section
/-! DEFINITION. The timer and key instructions (44_timers_keys.md R220 to R229). The wake and release steps of
`FX0A` are steps of the executor (Agents.lean). -/

namespace Sys2Proof.Machine

/-- `delayTimer <- b` (R31). -/
def State.setDelay (s : State) (b : Byte) : State := { s with delayTimer := b }

/-- `soundTimer <- b` (R31). -/
def State.setSound (s : State) (b : Byte) : State := { s with soundTimer := b }

/-- `wait <- w` (R33). -/
def State.setWait (s : State) (w : Option Nibble) : State := { s with wait := w }

/-- `key_wake <- c` (R30). -/
def State.setKeyWake (s : State) (c : Bool) : State := { s with keyWake := c }

/-- `FX07` (R220). -/
def execLdFromDelay (x : Nibble) (s : State) : Host.Outcome State Fault Refusal :=
  .next (s.finish x s.delayTimer)

/-- `FX15` (R221). -/
def execLdDelay (x : Nibble) (s : State) : Host.Outcome State Fault Refusal :=
  .next (s.setDelay (s.reg x)).advance

/-- `FX18` (R222). -/
def execLdSound (x : Nibble) (s : State) : Host.Outcome State Fault Refusal :=
  .next (s.setSound (s.reg x)).advance

/-- `EX9E` (R224, R226). -/
def execSkp (x : Nibble) (s : State) : Host.Outcome State Fault Refusal :=
  match s.keyAt (s.reg x) with
  | none => .next (s.raise (.keyIndexRange s.pc (encode (.skp x)) (s.reg x)))
  | some down => .next (s.skipIf down)

/-- `EXA1` (R225, R226). -/
def execSknp (x : Nibble) (s : State) : Host.Outcome State Fault Refusal :=
  match s.keyAt (s.reg x) with
  | none => .next (s.raise (.keyIndexRange s.pc (encode (.sknp x)) (s.reg x)))
  | some down => .next (s.skipIf (!down))

/-- `FX0A`, the issue step (R229): the wait begins, earlier events do not count, `pc` stays. -/
def execLdKey (x : Nibble) (s : State) : Host.Outcome State Fault Refusal :=
  .next ((s.setWait (some x)).setKeyWake false)

end Sys2Proof.Machine
end

