-- ==== Sys2Proof/Machine/Agents.lean ====
section
/-! DEFINITION. The steps of the four agents (00_scope.md R5): the executor (40_dispatch_and_control.md R120,
44_timers_keys.md R230, R231), the tick agent (R223), the key-event agent (R228) and the host (20_memory.md R79,
70_reset_and_hazards.md R290, R291), and which of them moves next. -/

namespace Sys2Proof.Machine

/-! ## The executor -/

/-- May a word be fetched at `pc`? (R67) -/
def State.fetchable (s : State) : Bool := decide (s.pc.toNat ≤ 4094)

/-- Fetch, decode, dispatch (R120): the fetch bound first, then the decode, then the instruction (R255). -/
def State.instructionStep (s : State) : Host.Outcome State Fault Refusal :=
  if s.fetchable then
    match s.readWord s.pc.toNat with
    | none => .fault .outsideMemory
    | some w =>
      match decodeWord w with
      | .ok i => exec i s
      | .error e => .next (s.raise (reportInvalid e s.pc w))
  else .next (s.raise (.pcBounds s.pc))

/-- The wake step of a pending `FX0A` (R230). -/
def State.wakeStep (s : State) (x : Nibble) : State :=
  if s.lastEvent.kind = .pressed then
    (((s.setKeyWake false).setReg x (s.lastEvent.key.setWidth 8)).setWait none).advance
  else s.setKeyWake false

/-- The executor's turn, while it sees the machine as running: an instruction; a wake step where one is enabled;
nothing where it is blocked, halted or has ceased (R120, R230, R253, R265). -/
def State.executorTurn (s : State) : Host.Outcome State Fault Refusal :=
  if s.executorActive && !s.execHalted then
    match s.wait with
    | none => s.instructionStep
    | some x => .next (if s.keyWake then s.wakeStep x else s)
  else .next s

/-- The executor reads `running`: at 0 it ceases, and a pending `FX0A` is released with `V[X]`, `pc` and `key_wake`
unchanged (R231, R293). -/
def State.executorObservesStop (s : State) : State :=
  if s.running then s else (s.setExecutorActive false).setWait none

/-! ## The tick agent -/

/-- One less, and never below 0 (R31, R223). -/
def countDown (t : Byte) : Byte := if t = 0 then 0 else t - 1

/-- The tick agent's turn: both timers count down in one step (R223, R73). A tick after the host has cleared
`running` is the agent's last (R293). -/
def State.tickTurn (s : State) : State :=
  if s.tickActive then
    ((s.setDelay (countDown s.delayTimer)).setSound (countDown s.soundTimer)).setTickActive s.running
  else s

/-- The tick agent reads `running`: at 0 it ceases (R293). -/
def State.tickObservesStop (s : State) : State :=
  if s.running then s else s.setTickActive false

/-! ## The key-event agent -/

/-- A key event (R228), in every lifecycle state. -/
def State.keyEvent (s : State) (kind : KeyKind) (code : Byte) : State :=
  if h : code.toNat < 16 then
    ((s.setLastEvent ⟨true, kind, code.setWidth 4⟩).setKeys
      (s.keys.set code.toNat (decide (kind = .pressed)) h)).setKeyWake true
  else s.report (.keyCodeRange code)

/-! ## The host -/

/-- Has the executor no further step until a start? It has ceased, or the fatal fault has ended its loop
(R253, R293). -/
def State.executorDone (s : State) : Bool := !s.executorActive || s.execHalted

/-- Stopped: `running` is 0 and neither agent will take another step (R291). -/
def State.stopped (s : State) : Bool := !s.running && s.executorDone && !s.tickActive

/-- initialize (R290): every element at its value of R39. The inputs still to come (the agenda, the draws), the
parameter FONT and the never-cleared mark of R267 are not elements of R39. -/
def State.initMachine (s : State) : State :=
  { State.reset with font := s.font, draws := s.draws, agenda := s.agenda, faultMark := s.faultMark }

/-- The largest program image (R4: PROG_MAX). -/
abbrev progMax : Nat := 3584

/-- Where the program image is copied (R4: PROG_BASE). -/
abbrev progBase : Nat := 0x200

/-- load(bytes) (R79): an image over the limit writes nothing and returns a configuration error to the host. -/
def State.loadImage (s : State) (image : List Byte) : Host.Outcome State Fault Refusal :=
  if image.length ≤ progMax then
    match s.writeBytes progBase image with
    | some t => .next (t.setLoadResult .success)
    | none => .fault .outsideMemory
  else .next (s.setLoadResult .configurationError)

/-- start (R291): `running <- 1`, from which on both agents have steps. -/
def State.startMachine (s : State) : State :=
  ((s.setRunning true).setExecutorActive true).setTickActive true

/-- stop (R291): `running <- 0`; the agents cease as R293 says. -/
def State.stopMachine (s : State) : State := s.setRunning false

/-! ## Who moves -/

/-- The step of one turn of the agenda. -/
def State.takeTurn (s : State) (turn : Turn) : Host.Outcome State Fault Refusal :=
  match turn with
  | .executor             => s.executorTurn
  | .executorObservesStop => .next s.executorObservesStop
  | .tick                 => .next s.tickTurn
  | .tickObservesStop     => .next s.tickObservesStop
  | .key kind code        => .next (s.keyEvent kind code)
  | .initMachine          => if s.stopped then .next s.initMachine else .refused .initializeWhileNotStopped
  | .load image           => if s.stopped then s.loadImage image else .refused .loadWhileNotStopped
  | .start                => if s.stopped then .next s.startMachine else .refused .startWhileNotStopped
  | .stop                 => if s.running then .next s.stopMachine else .refused .stopWhileNotRunning

/-- The step where the agenda names no agent: the executor's while the machine is Running; after a stop, the two
agents cease one after the other (R293); a Stopped machine does not move (notes/assumptions/6.md). -/
def State.defaultTurn (s : State) : Host.Outcome State Fault Refusal :=
  if s.running then s.executorTurn
  else if s.executorActive then .next s.executorObservesStop
  else .next s.tickObservesStop

/-- One step of the machine: the first turn of the agenda, taken off it, or the default turn. -/
def State.agentStep (s : State) : Host.Outcome State Fault Refusal :=
  match s.agenda with
  | [] => s.defaultTurn
  | turn :: rest => (s.setAgenda rest).takeTurn turn

end Sys2Proof.Machine
end

