-- ==== Sys2Proof/Machine/Step.lean ====
section
/-! DEFINITION. The step of the machine and the placing of an instruction at its next fetch. -/

namespace Sys2Proof.Machine

/-- One atomic step of one agent (00_scope.md R5). -/
def step (s : State) : Host.Outcome State Fault Refusal := s.agentStep

/-- The machine with a word of spec/opcode_table.json where `step` fetches its next instruction, and Running: it
stands for the host's load and start (70_reset_and_hazards.md R292; notes/assumptions/13.md). -/
def State.withFetchWord (s : State) (nbits w : Nat) : State := s.placeWord (tableWord nbits w)

end Sys2Proof.Machine
end

