-- ==== Sys2Proof/Safety.lean ====
section
/-! DEFINITION. The terms the claims use: the parts of the state a frame speaks of, the states in which the
executor is about to fetch, the premise of R267, and the invariant of every reachable state. -/

namespace Sys2Proof.Machine

/-- The parts of the state, as a frame names them. Every field of State belongs to exactly one. -/
inductive Part where
  /-- V0..VF -/
  | regs
  | index
  | pc
  /-- the stack entries and `stackSize` -/
  | stack
  /-- every byte of memory -/
  | memory
  | display
  | delayTimer
  | soundTimer
  /-- the key flags and `lastEvent` -/
  | keys
  /-- `wait` and `key_wake` -/
  | keyWait
  /-- `running`, `exec_halted` and which agents have not ceased -/
  | lifecycle
  /-- the report stream and the fault mark -/
  | reports
  /-- the FbUpdate events -/
  | fbUpdates
  /-- the RAND draws taken -/
  | draws
  /-- what the last load returned -/
  | loadResult
  /-- the inputs still to come -/
  | agenda
  /-- the parameter FONT -/
  | font
  deriving DecidableEq, Repr

/-- From `s` to `t` nothing has changed but, possibly, the parts in `but`. -/
structure Unchanged (but : List Part) (s t : State) : Prop where
  regs : Part.regs ∉ but → ∀ x, t.reg x = s.reg x
  index : Part.index ∉ but → t.index = s.index
  pc : Part.pc ∉ but → t.pc = s.pc
  stack : Part.stack ∉ but → t.stack = s.stack ∧ t.stackSize = s.stackSize
  memory : Part.memory ∉ but → ∀ a, t.readByte a = s.readByte a
  display : Part.display ∉ but → t.display = s.display
  delayTimer : Part.delayTimer ∉ but → t.delayTimer = s.delayTimer
  soundTimer : Part.soundTimer ∉ but → t.soundTimer = s.soundTimer
  keys : Part.keys ∉ but → t.keys = s.keys ∧ t.lastEvent = s.lastEvent
  keyWait : Part.keyWait ∉ but → t.wait = s.wait ∧ t.keyWake = s.keyWake
  lifecycle : Part.lifecycle ∉ but → t.running = s.running ∧ t.execHalted = s.execHalted ∧
    t.executorActive = s.executorActive ∧ t.tickActive = s.tickActive
  reports : Part.reports ∉ but → t.reports = s.reports ∧ t.faultMark = s.faultMark
  fbUpdates : Part.fbUpdates ∉ but → t.fbUpdates = s.fbUpdates
  draws : Part.draws ∉ but → t.draws = s.draws
  loadResult : Part.loadResult ∉ but → t.loadResult = s.loadResult
  agenda : Part.agenda ∉ but → t.agenda = s.agenda
  font : Part.font ∉ but → t.font = s.font

/-- Every register but those listed is unchanged. -/
def SameRegsBut (xs : List Nibble) (s t : State) : Prop := ∀ y, y ∉ xs → t.reg y = s.reg y

/-- Every byte of memory outside the `n` bytes at `a` is unchanged. -/
def SameMemoryBut (a n : Nat) (s t : State) : Prop :=
  ∀ b, b < a ∨ a + n ≤ b → t.readByte b = s.readByte b

/-- The executor has an instruction step: it sees the machine as running, is not halted and is not blocked
(40_dispatch_and_control.md R120). -/
def State.ReadyToFetch (s : State) : Prop :=
  s.executorActive = true ∧ s.execHalted = false ∧ s.wait = none

/-- The next step of the machine is the executor's, and it leaves `rest` of the agenda. -/
def State.ExecutorNext (s : State) (rest : List Turn) : Prop :=
  s.agenda = .executor :: rest ∨ (s.agenda = [] ∧ rest = [] ∧ s.running = true)

/-- The next step of the machine is an instruction step of the executor on the word `w`, whose high byte stands at
`pc` and whose low byte at `pc + 1` (20_memory.md R63, R67). -/
def State.AboutToRun (s : State) (w : Word) (rest : List Turn) : Prop :=
  s.ReadyToFetch ∧ s.ExecutorNext rest ∧ s.pc.toNat ≤ 4094 ∧
    s.readByte s.pc.toNat = some (highByte w) ∧ s.readByte (s.pc.toNat + 1) = some (lowByte w)

/-- No report of codes 1 to 4 or 6 to 8 has ever been made (60_exceptions.md R267). -/
def State.clean (s : State) : Prop := s.faultMark = false

/-! What an instruction does, in the shapes the claims use. Each says that `exec` ANSWERS a next state, what the
state holds, and its frame: nothing else has changed. -/

/-- `exec i s` answers a next state with `pc` at `target`, and nothing else has changed. -/
def MovesOnlyPc (i : Instr) (s : State) (target : Word) : Prop :=
  ∃ t, exec i s = .next t ∧ t.pc = target ∧ Unchanged [.pc] s t

/-- `exec i s` answers a next state with `value` in `V[x]` and `pc + 2`; nothing else has changed, VF among it
where `x` is another register. -/
def WritesRegister (i : Instr) (s : State) (x : Nibble) (value : Nat) : Prop :=
  ∃ t, exec i s = .next t ∧ (t.reg x).toNat = value ∧ SameRegsBut [x] s t ∧ t.pc = s.pc + 2 ∧
    Unchanged [.regs, .pc] s t

/-- `exec i s` answers a next state with `flag` in VF, whatever `x` is, `value` in `V[x]` where `x` is not VF, and
`pc + 2`; nothing else has changed (R150). -/
def WritesRegisterAndFlag (i : Instr) (s : State) (x : Nibble) (value flag : Nat) : Prop :=
  ∃ t, exec i s = .next t ∧ (t.reg 0xF#4).toNat = flag ∧ (x ≠ 0xF#4 → (t.reg x).toNat = value) ∧
    SameRegsBut [x, 0xF#4] s t ∧ t.pc = s.pc + 2 ∧ Unchanged [.regs, .pc] s t

/-- `exec i s` answers a next state in which the one effect is the report `r`, the fault mark and `pc` at `target`
(R252). -/
def ReportsOnly (i : Instr) (s : State) (r : Report) (target : Word) : Prop :=
  ∃ t, exec i s = .next t ∧ t.reports = s.reports ++ [r] ∧ t.faultMark = true ∧ t.pc = target ∧
    Unchanged [.reports, .pc] s t

/-- The pixel of the sprite byte `b` that lands on column `px` when its left edge is at column `x`: bit `j` from the
left, where `px = (x + j) mod 64` (43_display.md R203). -/
def spriteBit (b : Byte) (x px : Nat) : Bool :=
  decide ((px + 64 - x % 64) % 64 < 8) && b.getLsbD (7 - (px + 64 - x % 64) % 64)

/-- The values after initialize that R39 gives, for the fields the spec gives a value: the document's and the spec's
decision D3. -/
def State.AtInitialValues (s : State) : Prop :=
  (∀ x, s.reg x = 0#8) ∧ s.index = 0#16 ∧ s.pc = 0x200#16 ∧ s.stackSize.val = 0 ∧
  (∀ a : Fin 80, s.readByte a.val = some s.font[a]) ∧ (∀ a, 80 ≤ a → a ≤ 4095 → s.readByte a = some 0#8) ∧
  (∀ r c, Display.byte s.display r c = 0#8) ∧ (∀ k : Fin 16, s.keys[k] = false) ∧ s.lastEvent.valid = false ∧
  s.keyWake = false ∧ s.delayTimer = 0#8 ∧ s.soundTimer = 0#8 ∧ s.running = false ∧ s.execHalted = false ∧
  s.wait = none ∧ s.reports = []

/-- The invariant of every reachable state (10_state.md R37, with R23, R24, R30, R33 and 60_exceptions.md R253,
R267). -/
structure State.Inv (s : State) : Prop where
  /-- memory is in its canonical form -/
  mem : Memory.wf s.font s.mem = true
  /-- R37: `pc <= 4350` -/
  pc : s.pc.toNat ≤ 4350
  /-- R123: a pushed value is at most 4096 -/
  stack : ∀ k : Fin 48, k.val < s.stackSize.val → s.stack[k].toNat ≤ 4096
  /-- R230: `lastEvent.valid` is 1 where `key_wake` is -/
  wake : s.keyWake = true → s.lastEvent.valid = true
  /-- R33: while `wait = Some X`, `pc` holds the address of that `FX0A`, and the executor is blocked in it -/
  wait : ∀ x, s.wait = some x →
    s.readWord s.pc.toNat = some (encode (.ldKey x)) ∧ s.execHalted = false ∧ s.executorActive = true
  /-- R253: the executor is halted at a `pc` from which nothing can be fetched -/
  halted : s.execHalted = true → 4094 < s.pc.toNat
  /-- R291: while Running, both agents have steps -/
  live : s.running = true → s.executorActive = true ∧ s.tickActive = true
  /-- R267: every report of the stream that is a program error has set the mark -/
  mark : ∀ r ∈ s.reports, r.marks = true → s.faultMark = true

end Sys2Proof.Machine
end

