-- ==== Sys2Proof/Certificates/Slice0/Obligations.lean ====
section
/-! DEFINITION. The statements about the machine, from the numbered rules of spec/. OBLIGATIONS.json lists them with
their rules. No statement rests on the value of a free value (Config.rand) or on the contents of FONT. -/

open Sys2Proof Sys2Proof.Machine

/-! ## Encoding (30_encoding.md) -/

/-- The two bytes of an instruction decode to that instruction, with every operand at every value, and the bytes
after them are left (R90, R92, R94). -/
def Obligations.DecodeOfEncodedInstruction : Prop :=
  ∀ (i : Instr) (rest : List Byte), decode (encodeBytes i ++ rest) = .ok (i, rest)

/-- A word that decodes is the encoding of what it decodes to: no bit is dropped (R94, R95). -/
def Obligations.EncodeOfDecodedWord : Prop :=
  ∀ (w : Word) (i : Instr), decodeWord w = .ok i → encode i = w

/-- The decode procedure of R95 accepts a word exactly where a row of R94 covers it, and whatever instruction it
answers, that instruction's own row covers the word. -/
def Obligations.DecoderAcceptsExactlyTheTable : Prop :=
  ∀ w : Word, (wordWellFormed w = true ↔ ∃ i, decodeWord w = .ok i) ∧
    ∀ i, decodeWord w = .ok i → i.row.covers w = true

/-- "The masks of the 34 rows are pairwise disjoint, so at most one row matches any word." (R94) -/
def Obligations.OpcodeRowsArePairwiseDisjoint : Prop :=
  opcodeTable.length = 34 ∧
    opcodeTable.Pairwise fun r q => ∀ w : Word, ¬(r.covers w = true ∧ q.covers w = true)

/-- Words written out from the fields of R91 and the patterns of R94, one for each format and family. -/
def Obligations.SampleWordsDecodeAsWritten : Prop :=
  decodeWord 0xD12F#16 = .ok (.drw 1 2 0xF) ∧ decodeWord 0x8AB4#16 = .ok (.addReg 0xA 0xB) ∧
  decodeWord 0x6A7F#16 = .ok (.ldImm 0xA 0x7F) ∧ decodeWord 0x1FFF#16 = .ok (.jp 0xFFF) ∧
  decodeWord 0xF065#16 = .ok (.loadRegs 0) ∧ decodeWord 0xFF0A#16 = .ok (.ldKey 0xF) ∧
  decodeWord 0xEFA1#16 = .ok (.sknp 0xF) ∧ decodeWord 0x00EE#16 = .ok .ret ∧
  decodeWord 0x9120#16 = .ok (.sneReg 1 2) ∧ decodeWord 0x01E0#16 = .error .unknownSubop ∧
  decodeWord 0x5121#16 = .error .malformedLowNibble

/-- The invalid words of R96, class by class: a report, `pc + 2`, no other effect. That family 0x0 is matched on the
whole word is the spec's decision D12, and `pc + 2` outside family 0x8 its decision D11. The fault mark and the
executor's turn are the model's (notes/assumptions/9.md; 5.md and 6.md). -/
def Obligations.InvalidWordIsReportedAndSkipped : Prop :=
  ∀ (s : State) (w : Word) (rest : List Turn), s.AboutToRun w rest →
    ((w.toNat / 4096 = 0 ∧ w ≠ 0x00E0#16 ∧ w ≠ 0x00EE#16 ∨
        w.toNat / 4096 = 8 ∧ w.toNat % 16 ∈ [8, 9, 0xA, 0xB, 0xC, 0xD, 0xF] ∨
        w.toNat / 4096 = 0xE ∧ w.toNat % 256 ∉ [0x9E, 0xA1] ∨
        w.toNat / 4096 = 0xF ∧
          w.toNat % 256 ∉ [0x07, 0x0A, 0x15, 0x18, 0x1E, 0x29, 0x33, 0x55, 0x65]) →
      ∃ t, step s = .next t ∧ t.reports = s.reports ++ [.unknownSubop s.pc w] ∧ t.faultMark = true ∧
        t.pc = s.pc + 2 ∧ t.agenda = rest ∧ Unchanged [.reports, .pc, .agenda] s t) ∧
    ((w.toNat / 4096 = 5 ∨ w.toNat / 4096 = 9) ∧ w.toNat % 16 ≠ 0 →
      ∃ t, step s = .next t ∧ t.reports = s.reports ++ [.malformedLowNibble s.pc w] ∧ t.faultMark = true ∧
        t.pc = s.pc + 2 ∧ t.agenda = rest ∧ Unchanged [.reports, .pc, .agenda] s t)

/-! ## The executor's step (40_dispatch_and_control.md R120) -/

/-- Where the executor moves next and the bytes at `pc` and `pc + 1` decode to an instruction, the step is `exec` of
it, on the state with the executor's turn taken off the agenda. That the executor moves next is a turn of the agenda or
the model's default turn (notes/assumptions/5.md, 6.md). -/
def Obligations.StepRunsTheDecodedInstruction : Prop :=
  ∀ (s : State) (hi lo : Byte) (rest : List Turn) (i : Instr) (more : List Byte),
    s.ReadyToFetch → s.ExecutorNext rest → s.pc.toNat ≤ 4094 →
    s.readByte s.pc.toNat = some hi → s.readByte (s.pc.toNat + 1) = some lo →
    decode (hi :: lo :: more) = .ok (i, more) →
    step s = exec i (s.setAgenda rest)

/-- A table word that decodes, placed at the next fetch, is run by the very next step. The placing is the model's, and
leaves an empty agenda (notes/assumptions/13.md, 6.md). -/
def Obligations.PlacedWordRunsNext : Prop :=
  ∀ (s : State) (nbits w : Nat) (i : Instr), decodeTableWord nbits w = some i →
    step (s.withFetchWord nbits w) = exec i (s.withFetchWord nbits w)

/-- A fetch beyond memory (R67): one report, `exec_halted`, everything else as it was, nothing decoded (R253, R255);
and from then on the executor has no step. That a fetch at 4095 is out of bounds is the spec's decision D22, that only
an initialize ends the halt its decision D21. The spec gives a halted executor no step at all: that its turn is a step
which changes nothing is the model's choice (second clause; notes/assumptions/5.md, 6.md), and so is the fault mark
(9.md). -/
def Obligations.FetchBeyondMemoryHaltsTheExecutor : Prop :=
  (∀ (s : State) (rest : List Turn), s.ReadyToFetch → s.ExecutorNext rest → 4094 < s.pc.toNat →
    ∃ t, step s = .next t ∧ t.reports = s.reports ++ [.pcBounds s.pc] ∧ t.faultMark = true ∧
      t.execHalted = true ∧ t.running = s.running ∧ t.executorActive = s.executorActive ∧
      t.tickActive = s.tickActive ∧ t.agenda = rest ∧ Unchanged [.reports, .lifecycle, .agenda] s t) ∧
  (∀ (s : State) (rest : List Turn), s.execHalted = true → s.ExecutorNext rest →
    step s = .next (s.setAgenda rest)) ∧
  (∀ s t : State, s.execHalted = true → step s = .next t →
    t.execHalted = true ∨ ∃ rest, s.agenda = .initMachine :: rest)

/-! ## Control transfer (40_dispatch_and_control.md) -/

/-- `1NNN` (R122). -/
def Obligations.JumpSetsPc : Prop :=
  ∀ (nnn : Addr) (s : State), decodeWord (formatA 0x1#4 nnn) = .ok (.jp nnn) ∧
    ∃ t, exec (.jp nnn) s = .next t ∧ t.pc.toNat = nnn.toNat ∧ Unchanged [.pc] s t

/-- `BNNN` (R128): V0 plus NNN, not reduced modulo 4096, at most 4350. -/
def Obligations.IndexedJumpAddsV0 : Prop :=
  ∀ (nnn : Addr) (s : State), decodeWord (formatA 0xB#4 nnn) = .ok (.jpV0 nnn) ∧
    ∃ t, exec (.jpV0 nnn) s = .next t ∧ t.pc.toNat = (s.reg 0x0#4).toNat + nnn.toNat ∧ t.pc.toNat ≤ 4350 ∧
      Unchanged [.pc] s t

/-- `2NNN` (R123): the push, and the full stack. That `pc` stays where it is on a full stack is the spec's decision
D11; the fault mark is the model's field (notes/assumptions/9.md). -/
def Obligations.CallPushesTheReturnAddress : Prop :=
  ∀ (nnn : Addr) (s : State), decodeWord (formatA 0x2#4 nnn) = .ok (.call nnn) ∧
    (s.stackSize.val < 48 →
      ∃ t, exec (.call nnn) s = .next t ∧ t.stackSize.val = s.stackSize.val + 1 ∧
        (∀ k : Fin 48, t.stack[k] = if k.val = s.stackSize.val then s.pc + 2 else s.stack[k]) ∧
        t.pc.toNat = nnn.toNat ∧ Unchanged [.stack, .pc] s t) ∧
    (s.stackSize.val = 48 →
      ReportsOnly (.call nnn) s (.stackOverflow s.pc (formatA 0x2#4 nnn)) s.pc)

/-- `00EE` (R121): the pop, and the empty stack, whose report also sets the model's own field `faultMark`, as R252 and
R267 advise (notes/assumptions/9.md). -/
def Obligations.ReturnPopsIntoPc : Prop :=
  ∀ s : State, decodeWord 0x00EE#16 = .ok .ret ∧
    (∀ k : Fin 48, s.stackSize.val = k.val + 1 →
      ∃ t, exec .ret s = .next t ∧ t.pc = s.stack[k] ∧ t.stackSize.val = k.val ∧ t.stack = s.stack ∧
        Unchanged [.stack, .pc] s t) ∧
    (s.stackSize.val = 0 → ReportsOnly .ret s (.stackUnderflow s.pc 0x00EE#16) s.pc)

/-- "`2NNN` then `00EE` returns pc to original_pc+2" (R123), and the stack is as it was below its top. -/
def Obligations.CallThenReturnComesBack : Prop :=
  ∀ (nnn : Addr) (s : State), s.stackSize.val < 48 →
    ∃ t u, exec (.call nnn) s = .next t ∧ exec .ret t = .next u ∧ u.pc = s.pc + 2 ∧
      u.stackSize = s.stackSize ∧ (∀ k : Fin 48, k.val < s.stackSize.val → u.stack[k] = s.stack[k]) ∧
      Unchanged [.stack, .pc] s u

/-- `3XNN`, `4XNN`, `5XY0`, `9XY0` (R124 to R127). Another low nibble in family 5 or 9 is an invalid word (R96): its
step is the statement InvalidWordIsReportedAndSkipped. -/
def Obligations.SkipsCompareForEquality : Prop :=
  ∀ (x y : Nibble) (nn : Byte) (s : State),
    decodeWord (formatI 0x3#4 x nn) = .ok (.seImm x nn) ∧ decodeWord (formatI 0x4#4 x nn) = .ok (.sneImm x nn) ∧
    decodeWord (formatR 0x5#4 x y 0#4) = .ok (.seReg x y) ∧
    decodeWord (formatR 0x9#4 x y 0#4) = .ok (.sneReg x y) ∧
    (∀ n : Nibble, n ≠ 0#4 → decodeWord (formatR 0x5#4 x y n) = .error .malformedLowNibble ∧
      decodeWord (formatR 0x9#4 x y n) = .error .malformedLowNibble) ∧
    MovesOnlyPc (.seImm x nn) s (if (s.reg x).toNat = nn.toNat then s.pc + 4 else s.pc + 2) ∧
    MovesOnlyPc (.sneImm x nn) s (if (s.reg x).toNat ≠ nn.toNat then s.pc + 4 else s.pc + 2) ∧
    MovesOnlyPc (.seReg x y) s (if (s.reg x).toNat = (s.reg y).toNat then s.pc + 4 else s.pc + 2) ∧
    MovesOnlyPc (.sneReg x y) s (if (s.reg x).toNat ≠ (s.reg y).toNat then s.pc + 4 else s.pc + 2)

/-! ## Register file and ALU (41_register_alu.md) -/

/-- `6XNN` (R151). -/
def Obligations.LoadImmediateSetsTheRegister : Prop :=
  ∀ (x : Nibble) (nn : Byte) (s : State), decodeWord (formatI 0x6#4 x nn) = .ok (.ldImm x nn) ∧
    WritesRegister (.ldImm x nn) s x nn.toNat

/-- `7XNN` (R152): modulo 256, and VF is not written as a flag. -/
def Obligations.AddImmediateWrapsWithoutFlag : Prop :=
  ∀ (x : Nibble) (nn : Byte) (s : State), decodeWord (formatI 0x7#4 x nn) = .ok (.addImm x nn) ∧
    WritesRegister (.addImm x nn) s x (((s.reg x).toNat + nn.toNat) % 256)

/-- `8XY0` to `8XY3` (R153 to R156): VF is unchanged unless it is the destination. For the logical operations that is
the spec's decision D7. -/
def Obligations.CopyAndLogicLeaveTheFlag : Prop :=
  ∀ (x y : Nibble) (s : State),
    decodeWord (formatR 0x8#4 x y 0#4) = .ok (.ldReg x y) ∧ decodeWord (formatR 0x8#4 x y 1#4) = .ok (.orReg x y) ∧
    decodeWord (formatR 0x8#4 x y 2#4) = .ok (.andReg x y) ∧
    decodeWord (formatR 0x8#4 x y 3#4) = .ok (.xorReg x y) ∧
    WritesRegister (.ldReg x y) s x (s.reg y).toNat ∧
    WritesRegister (.orReg x y) s x ((s.reg x).toNat ||| (s.reg y).toNat) ∧
    WritesRegister (.andReg x y) s x ((s.reg x).toNat &&& (s.reg y).toNat) ∧
    WritesRegister (.xorReg x y) s x ((s.reg x).toNat ^^^ (s.reg y).toNat)

/-- `8XY4` (R157). That VF holds the flag after it with X = 0xF is the spec's decision D6 (R150). -/
def Obligations.AddSetsCarry : Prop :=
  ∀ (x y : Nibble) (s : State), decodeWord (formatR 0x8#4 x y 4#4) = .ok (.addReg x y) ∧
    WritesRegisterAndFlag (.addReg x y) s x (((s.reg x).toNat + (s.reg y).toNat) % 256)
      (if (s.reg x).toNat + (s.reg y).toNat > 255 then 1 else 0)

/-- `8XY5` (R158). The flag remaining with X = 0xF is the spec's decision D6 (R150). -/
def Obligations.SubtractSetsNoBorrow : Prop :=
  ∀ (x y : Nibble) (s : State), decodeWord (formatR 0x8#4 x y 5#4) = .ok (.subReg x y) ∧
    WritesRegisterAndFlag (.subReg x y) s x ((((s.reg x).toNat : Int) - (s.reg y).toNat) % 256).toNat
      (if (s.reg x).toNat ≥ (s.reg y).toNat then 1 else 0)

/-- `8XY7` (R160). That no borrow means V[Y] >= V[X] here is the spec's decision D31, the flag remaining with X =
0xF its decision D6 (R150). -/
def Obligations.ReverseSubtractSetsNoBorrow : Prop :=
  ∀ (x y : Nibble) (s : State), decodeWord (formatR 0x8#4 x y 7#4) = .ok (.subnReg x y) ∧
    WritesRegisterAndFlag (.subnReg x y) s x ((((s.reg y).toNat : Int) - (s.reg x).toNat) % 256).toNat
      (if (s.reg y).toNat ≥ (s.reg x).toNat then 1 else 0)

/-- `8XY6` (R159) and `8XYE` (R161): the source is `V[Y]`, the flag the bit shifted out. The flag remaining with X =
0xF is the spec's decision D6 (R150). -/
def Obligations.ShiftsMoveTheOtherRegister : Prop :=
  ∀ (x y : Nibble) (s : State),
    decodeWord (formatR 0x8#4 x y 6#4) = .ok (.shrReg x y) ∧
    decodeWord (formatR 0x8#4 x y 0xE#4) = .ok (.shlReg x y) ∧
    WritesRegisterAndFlag (.shrReg x y) s x ((s.reg y).toNat / 2) ((s.reg y).toNat % 2) ∧
    WritesRegisterAndFlag (.shlReg x y) s x ((s.reg y).toNat * 2 % 256) ((s.reg y).toNat / 128)

/-- The flag-writing instructions and the draw leave 0 or 1 in VF whatever the destination (R21, R150); an
instruction that is none of these and does not name VF as its destination leaves VF as it was (R21). -/
def Obligations.FlagRegisterHoldsOnlyFlags : Prop :=
  ∀ (x y n : Nibble) (s t : State),
    ((exec (.addReg x y) s = .next t ∨ exec (.subReg x y) s = .next t ∨ exec (.shrReg x y) s = .next t ∨
        exec (.subnReg x y) s = .next t ∨ exec (.shlReg x y) s = .next t ∨
        (exec (.drw x y n) s = .next t ∧ n ≠ 0#4 ∧ s.index.toNat + n.toNat ≤ 4096)) →
      t.reg 0xF#4 = 0#8 ∨ t.reg 0xF#4 = 1#8) ∧
    (∀ i, exec i s = .next t → t.reg 0xF#4 ≠ s.reg 0xF#4 →
      (∃ x y, i = .addReg x y ∨ i = .subReg x y ∨ i = .shrReg x y ∨ i = .subnReg x y ∨ i = .shlReg x y) ∨
      (∃ x y n, i = .drw x y n) ∨
      (∃ nn, i = .ldImm 0xF#4 nn ∨ i = .addImm 0xF#4 nn ∨ i = .rnd 0xF#4 nn) ∨
      (∃ y, i = .ldReg 0xF#4 y ∨ i = .orReg 0xF#4 y ∨ i = .andReg 0xF#4 y ∨ i = .xorReg 0xF#4 y) ∨
      i = .ldFromDelay 0xF#4 ∨ i = .loadRegs 0xF#4)

/-- `CXNN` (R162), whatever the draw is: the draw masked, one draw taken. That each draw is a free value of its own,
picked by a counter, is the model's form of the spec's decision D8 (notes/assumptions/8.md). -/
def Obligations.RandomByteIsMasked : Prop :=
  ∀ (x : Nibble) (nn : Byte) (s : State), decodeWord (formatI 0xC#4 x nn) = .ok (.rnd x nn) ∧
    ∃ t, exec (.rnd x nn) s = .next t ∧ (t.reg x).toNat = (Config.rand s.draws).toNat &&& nn.toNat ∧
      (∀ k, nn.getLsbD k = false → (t.reg x).getLsbD k = false) ∧ t.draws = s.draws + 1 ∧
      SameRegsBut [x] s t ∧ t.pc = s.pc + 2 ∧ Unchanged [.regs, .pc, .draws] s t

/-! ## Index register and memory (42_index_memory.md) -/

/-- `ANNN`, `FX1E`, `FX29` (R180 to R182): VF is never written. For `FX1E` the wrap at 16 bits and the absent flag are
the spec's decisions D9 and D7. -/
def Obligations.IndexInstructionsSetIndex : Prop :=
  ∀ (nnn : Addr) (x : Nibble) (s : State),
    decodeWord (formatA 0xA#4 nnn) = .ok (.ldIndex nnn) ∧ decodeWord (formatI 0xF#4 x 0x1E#8) = .ok (.addIndex x) ∧
    decodeWord (formatI 0xF#4 x 0x29#8) = .ok (.ldFont x) ∧
    (∃ t, exec (.ldIndex nnn) s = .next t ∧ t.index.toNat = nnn.toNat ∧ t.pc = s.pc + 2 ∧
      Unchanged [.index, .pc] s t) ∧
    (∃ t, exec (.addIndex x) s = .next t ∧ t.index.toNat = (s.index.toNat + (s.reg x).toNat) % 65536 ∧
      t.pc = s.pc + 2 ∧ Unchanged [.index, .pc] s t) ∧
    (∃ t, exec (.ldFont x) s = .next t ∧ t.index.toNat = (s.reg x).toNat * 5 ∧ t.pc = s.pc + 2 ∧
      Unchanged [.index, .pc] s t)

/-- `FX33` (R183). The order of the digits and the bounds check are the spec's decisions D18 and D10 The fault
mark is the model's field (notes/assumptions/9.md). -/
def Obligations.BcdStoresTheDecimalDigits : Prop :=
  ∀ (x : Nibble) (s : State), decodeWord (formatI 0xF#4 x 0x33#8) = .ok (.bcd x) ∧
    (s.index.toNat + 3 ≤ 4096 →
      ∃ t h d o, exec (.bcd x) s = .next t ∧ t.readByte s.index.toNat = some h ∧
        t.readByte (s.index.toNat + 1) = some d ∧ t.readByte (s.index.toNat + 2) = some o ∧
        h.toNat = (s.reg x).toNat / 100 ∧ d.toNat = (s.reg x).toNat / 10 % 10 ∧ o.toNat = (s.reg x).toNat % 10 ∧
        SameMemoryBut s.index.toNat 3 s t ∧ t.pc = s.pc + 2 ∧ Unchanged [.memory, .pc] s t) ∧
    (s.index.toNat + 3 > 4096 →
      ReportsOnly (.bcd x) s (.memBounds s.pc (formatI 0xF#4 x 0x33#8) s.index 3) (s.pc + 2))

/-- `FX55` (R184). The bounds check is the spec's decision D10 The fault
mark is the model's field (notes/assumptions/9.md). -/
def Obligations.StoreRegistersWritesTheBlock : Prop :=
  ∀ (x : Nibble) (s : State), decodeWord (formatI 0xF#4 x 0x55#8) = .ok (.storeRegs x) ∧
    (s.index.toNat + (x.toNat + 1) ≤ 4096 →
      ∃ t, exec (.storeRegs x) s = .next t ∧
        (∀ k : Nibble, k.toNat ≤ x.toNat → t.readByte (s.index.toNat + k.toNat) = some (s.reg k)) ∧
        SameMemoryBut s.index.toNat (x.toNat + 1) s t ∧ t.index.toNat = s.index.toNat + (x.toNat + 1) ∧
        t.pc = s.pc + 2 ∧ Unchanged [.memory, .index, .pc] s t) ∧
    (s.index.toNat + (x.toNat + 1) > 4096 →
      ReportsOnly (.storeRegs x) s (.memBounds s.pc (formatI 0xF#4 x 0x55#8) s.index (x.toNat + 1)) (s.pc + 2))

/-- `FX65` (R185): the registers above V[X] are unchanged. The bounds check is the spec's decision D10 The fault
mark is the model's field (notes/assumptions/9.md). -/
def Obligations.LoadRegistersReadsTheBlock : Prop :=
  ∀ (x : Nibble) (s : State), decodeWord (formatI 0xF#4 x 0x65#8) = .ok (.loadRegs x) ∧
    (s.index.toNat + (x.toNat + 1) ≤ 4096 →
      ∃ t, exec (.loadRegs x) s = .next t ∧
        (∀ k : Nibble, k.toNat ≤ x.toNat → s.readByte (s.index.toNat + k.toNat) = some (t.reg k)) ∧
        (∀ k : Nibble, x.toNat < k.toNat → t.reg k = s.reg k) ∧
        t.index.toNat = s.index.toNat + (x.toNat + 1) ∧ t.pc = s.pc + 2 ∧ Unchanged [.regs, .index, .pc] s t) ∧
    (s.index.toNat + (x.toNat + 1) > 4096 →
      ReportsOnly (.loadRegs x) s (.memBounds s.pc (formatI 0xF#4 x 0x65#8) s.index (x.toNat + 1)) (s.pc + 2))

/-- "Dump/load round-trip" (R185): after `FX55`, whatever the registers have become since, `FX65` from the same
`index` with the same `X` gives the register vector back, and both advance `index` by X + 1. -/
def Obligations.StoreThenLoadRestoresTheRegisters : Prop :=
  ∀ (x : Nibble) (s : State) (v : Vector Byte 16), s.index.toNat + (x.toNat + 1) ≤ 4096 →
    ∃ t u, exec (.storeRegs x) s = .next t ∧ exec (.loadRegs x) ((t.setRegs v).setIndex s.index) = .next u ∧
      (∀ k : Nibble, k.toNat ≤ x.toNat → u.reg k = s.reg k) ∧
      t.index.toNat = s.index.toNat + (x.toNat + 1) ∧ u.index = t.index

/-- The bounds rule of R66, for the four instructions that use memory: a report exactly where n >= 1 and index + n >
4096, so never for `DXY0`. The check is the spec's decision D10; the fault mark is the model's field
(notes/assumptions/9.md). -/
def Obligations.DataAccessReportsExactlyOutOfBounds : Prop :=
  ∀ (i : Instr) (n : Nat) (s t : State),
    ((∃ x, i = .bcd x ∧ n = 3) ∨ (∃ x, i = .storeRegs x ∧ n = x.toNat + 1) ∨
      (∃ x, i = .loadRegs x ∧ n = x.toNat + 1) ∨ (∃ x y m, i = .drw x y m ∧ n = m.toNat)) →
    exec i s = .next t →
    (1 ≤ n ∧ s.index.toNat + n > 4096 →
      t.reports = s.reports ++ [.memBounds s.pc (encode i) s.index n] ∧ t.faultMark = true ∧ t.pc = s.pc + 2 ∧
        Unchanged [.reports, .pc] s t) ∧
    (¬(1 ≤ n ∧ s.index.toNat + n > 4096) → t.reports = s.reports ∧ t.pc = s.pc + 2)

/-- R78, R295: the bytes `FX55` stores over the next instruction, at any place in its block, are what the next fetch
reads: where the two bytes are V[j] and V[j + 1] and decode to an instruction, the executor's next step is exec of
it. The spec lets any agent move between the two (R5): the second step is the executor's where the agenda says so,
or by the model's default turn (notes/assumptions/5.md, 6.md). -/
def Obligations.StoredCodeIsFetchedNext : Prop :=
  ∀ (x j : Nibble) (s : State) (i : Instr) (rest : List Turn), s.AboutToRun (encode (.storeRegs x)) rest →
    s.index.toNat + (x.toNat + 1) ≤ 4096 → s.index.toNat + j.toNat = s.pc.toNat + 2 → j.toNat + 1 ≤ x.toNat →
    decode [s.reg j, s.reg (j + 1)] = .ok (i, []) →
    ∃ t, step s = .next t ∧ t.pc = s.pc + 2 ∧
      ∀ rest', t.ExecutorNext rest' → step t = exec i (t.setAgenda rest')

/-! ## Display (43_display.md) -/

/-- `00E0` (R201). The model counts the update events (notes/assumptions/10.md). -/
def Obligations.ClearBlanksTheDisplay : Prop :=
  ∀ s : State, decodeWord 0x00E0#16 = .ok .cls ∧
    ∃ t, exec .cls s = .next t ∧ (∀ r c, Display.byte t.display r c = 0#8) ∧ t.fbUpdates = s.fbUpdates + 1 ∧
      t.pc = s.pc + 2 ∧ Unchanged [.display, .fbUpdates, .pc] s t

/-- BlitRow (R203): exactly the columns `(x + j) mod 64` of the sprite bits j that are 1 are touched, in row r and no
other, each inverted; and it answers whether one of them was set. That the answer covers both bytes is the spec's
decision D16. -/
def Obligations.BlitRowInvertsTheWrappedColumns : Prop :=
  ∀ (d : Display) (r : Fin 32) (x : Nat) (b : Byte), x < 64 →
    (∀ (px : Fin 64) (q : Fin 32), Display.pixel (blitRow d r x b).1 px q =
      (Display.pixel d px q ^^ (decide (q = r) && spriteBit b x px.val))) ∧
    ((blitRow d r x b).2 = true ↔ ∃ px : Fin 64, Display.pixel d px r = true ∧ spriteBit b x px.val = true)

/-- `DXYN` (R202), for every height. With N4 rows inside memory: each pixel of row `(y + k) mod 32` is inverted where
row k of the sprite has a bit at its column, and no other pixel changes; VF is the collision of the last row only; one
update event. With N4 = 0: nothing but `pc + 2`. Beyond memory: MemBounds. The last row's flag, the height 0 and the
bounds check are the spec's decisions D14, D15 and D10; the count of update events and the fault mark are the model's
fields (notes/assumptions/10.md, 9.md). -/
def Obligations.DrawInvertsEverySpritePixel : Prop :=
  ∀ (x y n : Nibble) (s : State), decodeWord (formatR 0xD#4 x y n) = .ok (.drw x y n) ∧
    (1 ≤ n.toNat ∧ s.index.toNat + n.toNat ≤ 4096 →
      ∃ (t : State) (row : Nat → Byte), exec (.drw x y n) s = .next t ∧
        (∀ k, k < n.toNat → s.readByte (s.index.toNat + k) = some (row k)) ∧
        (∀ (px : Fin 64) (r : Fin 32), t.pixel px r =
          (s.pixel px r ^^
            (decide ((r.val + 32 - (s.reg y).toNat % 32) % 32 < n.toNat) &&
              spriteBit (row ((r.val + 32 - (s.reg y).toNat % 32) % 32)) (s.reg x).toNat px.val))) ∧
        (t.reg 0xF#4 = 0#8 ∨ t.reg 0xF#4 = 1#8) ∧
        (t.reg 0xF#4 = 1#8 ↔ ∃ px : Fin 64, s.pixel px (rowOf ((s.reg y).toNat + (n.toNat - 1))) = true ∧
          spriteBit (row (n.toNat - 1)) (s.reg x).toNat px.val = true) ∧
        SameRegsBut [0xF#4] s t ∧ t.fbUpdates = s.fbUpdates + 1 ∧ t.pc = s.pc + 2 ∧
        Unchanged [.regs, .display, .fbUpdates, .pc] s t) ∧
    (n.toNat = 0 → MovesOnlyPc (.drw x y n) s (s.pc + 2)) ∧
    (1 ≤ n.toNat ∧ s.index.toNat + n.toNat > 4096 →
      ReportsOnly (.drw x y n) s (.memBounds s.pc (formatR 0xD#4 x y n) s.index n.toNat) (s.pc + 2))

/-- The same sprite drawn twice at the same place restores the display (R202 (f)), and the second draw sets VF to 1
exactly where the first has lit a pixel of the last row. The clause on VF is the model's reading, from the
pseudocode of R202 and R203, and departs from the literal sentence of R202 (f), 'sets VF = 1 if its last row is
nonzero', where pixels under that row were lit before (notes/assumptions/21.md, DEDUCED); on a blank display the two
agree. -/
def Obligations.DrawTwiceRestoresTheDisplay : Prop :=
  ∀ (x y n : Nibble) (s : State) (last : Byte), 1 ≤ n.toNat → s.index.toNat + n.toNat ≤ 4096 →
    s.readByte (s.index.toNat + (n.toNat - 1)) = some last →
    ∃ t u, exec (.drw x y n) s = .next t ∧ exec (.drw x y n) (t.setRegs s.v) = .next u ∧
      u.display = s.display ∧ (u.reg 0xF#4 = 1#8 ↔ ∃ px : Fin 64, (s.pixel px
        (rowOf ((s.reg y).toNat + (n.toNat - 1))) = false ∧ spriteBit last (s.reg x).toNat px.val = true))

/-- The framebuffer view (R205): 256 bytes, byte `8 * r + c` being `display[r][c]`. The order is the spec's decision
D24. -/
def Obligations.FramebufferListsRowsThenBytes : Prop :=
  ∀ s : State, s.framebuffer.length = 256 ∧
    ∀ (r : Fin 32) (c : Fin 8), s.framebuffer[8 * r.val + c.val]? = some (Display.byte s.display r c)

/-! ## Timers and keys (44_timers_keys.md) -/

/-- `FX07`, `FX15`, `FX18` (R220 to R222). Which opcode does what to which timer is the spec's decision D17. -/
def Obligations.TimerInstructionsReadAndWriteTimers : Prop :=
  ∀ (x : Nibble) (s : State),
    decodeWord (formatI 0xF#4 x 0x07#8) = .ok (.ldFromDelay x) ∧
    decodeWord (formatI 0xF#4 x 0x15#8) = .ok (.ldDelay x) ∧
    decodeWord (formatI 0xF#4 x 0x18#8) = .ok (.ldSound x) ∧
    WritesRegister (.ldFromDelay x) s x s.delayTimer.toNat ∧
    (∃ t, exec (.ldDelay x) s = .next t ∧ t.delayTimer = s.reg x ∧ t.pc = s.pc + 2 ∧
      Unchanged [.delayTimer, .pc] s t) ∧
    (∃ t, exec (.ldSound x) s = .next t ∧ t.soundTimer = s.reg x ∧ t.pc = s.pc + 2 ∧
      Unchanged [.soundTimer, .pc] s t)

/-- R223: while Running, n ticks lower each timer by n and never below zero, whatever the executor's condition (halted
or blocked), and change nothing else. The ticks are turns of the agenda (notes/assumptions/5.md). -/
def Obligations.TicksCountBothTimersDown : Prop :=
  ∀ (n : Nat) (s : State) (rest : List Turn), s.running = true → s.tickActive = true →
    s.agenda = List.replicate n .tick ++ rest →
    ∃ t : State, Host.Core.run core n s = .next t ∧ t.delayTimer.toNat = s.delayTimer.toNat - n ∧
      t.soundTimer.toNat = s.soundTimer.toNat - n ∧ t.agenda = rest ∧
      Unchanged [.delayTimer, .soundTimer, .agenda] s t

/-- `EX9E` and `EXA1` (R224, R225), and the key index out of range (R226). The fault for it is the spec's decision
D13; the fault mark is the model's field (notes/assumptions/9.md). -/
def Obligations.KeySkipsTestTheKeyLevel : Prop :=
  ∀ (x : Nibble) (s : State),
    decodeWord (formatI 0xE#4 x 0x9E#8) = .ok (.skp x) ∧ decodeWord (formatI 0xE#4 x 0xA1#8) = .ok (.sknp x) ∧
    (∀ k : Fin 16, (s.reg x).toNat = k.val →
      MovesOnlyPc (.skp x) s (if s.keys[k] = true then s.pc + 4 else s.pc + 2) ∧
      MovesOnlyPc (.sknp x) s (if s.keys[k] = false then s.pc + 4 else s.pc + 2)) ∧
    ((s.reg x).toNat > 15 →
      ReportsOnly (.skp x) s (.keyIndexRange s.pc (formatI 0xE#4 x 0x9E#8) (s.reg x)) (s.pc + 2) ∧
      ReportsOnly (.sknp x) s (.keyIndexRange s.pc (formatI 0xE#4 x 0xA1#8) (s.reg x)) (s.pc + 2))

/-- A key event (R228), in every lifecycle state: accepted for the codes 0 to 15, reported and ignored above. That it
is accepted in every lifecycle state is the spec's decision D26; the event is a turn of the agenda, and the fault mark
that a rejected code leaves alone is the model's field (notes/assumptions/5.md, 9.md). -/
def Obligations.KeyEventUpdatesKeysOrIsRejected : Prop :=
  ∀ (kind : KeyKind) (code : Byte) (s : State) (rest : List Turn), s.agenda = .key kind code :: rest →
    (code.toNat ≤ 15 →
      ∃ t, step s = .next t ∧ t.lastEvent.valid = true ∧ t.lastEvent.kind = kind ∧
        t.lastEvent.key.toNat = code.toNat ∧
        (∀ k : Fin 16, t.keys[k] = if k.val = code.toNat then decide (kind = .pressed) else s.keys[k]) ∧
        t.keyWake = true ∧ t.wait = s.wait ∧ t.agenda = rest ∧ Unchanged [.keys, .keyWait, .agenda] s t) ∧
    (15 < code.toNat →
      ∃ t, step s = .next t ∧ t.reports = s.reports ++ [.keyCodeRange code] ∧ t.faultMark = s.faultMark ∧
        t.agenda = rest ∧ Unchanged [.reports, .agenda] s t)

/-- `FX0A`, the issue step (R229): the wait begins, `key_wake` is cleared, `pc` stays; and while no valid event has
come the executor has no step, so a key held down before does not end the wait. That is the spec's decision D19.
That a turn of the blocked executor is a step which changes nothing (last clause) is the model's choice, since the
spec gives no step there (notes/assumptions/5.md, 6.md). -/
def Obligations.KeyWaitIssueBlocksTheExecutor : Prop :=
  ∀ (x : Nibble) (s : State), decodeWord (formatI 0xF#4 x 0x0A#8) = .ok (.ldKey x) ∧
    ∃ t, exec (.ldKey x) s = .next t ∧ t.wait = some x ∧ t.keyWake = false ∧ Unchanged [.keyWait] s t ∧
      ∀ rest, t.ExecutorNext rest → step t = .next (t.setAgenda rest)

/-- `FX0A`, the wake step (R230). The step is the spec's decision D19; that it comes next is a turn of the agenda or
the model's default turn (notes/assumptions/5.md, 6.md). -/
def Obligations.KeyWaitWakeStoresAPress : Prop :=
  ∀ (x : Nibble) (s : State) (rest : List Turn), s.wait = some x → s.keyWake = true → s.executorActive = true →
    s.execHalted = false → s.ExecutorNext rest →
    (s.lastEvent.kind = .pressed →
      ∃ t, step s = .next t ∧ (t.reg x).toNat = s.lastEvent.key.toNat ∧ SameRegsBut [x] s t ∧ t.wait = none ∧
        t.keyWake = false ∧ t.pc = s.pc + 2 ∧ t.agenda = rest ∧ Unchanged [.regs, .pc, .keyWait, .agenda] s t) ∧
    (s.lastEvent.kind = .released →
      ∃ t, step s = .next t ∧ t.wait = some x ∧ t.keyWake = false ∧ t.agenda = rest ∧
        Unchanged [.keyWait, .agenda] s t)

/-- `FX0A` released by stop (R231): no key captured, `pc` and `key_wake` unchanged, and the executor has ceased. That
`pc` is unchanged is the spec's decision D20; the turn, and the field that holds that the executor has ceased, are the
model's (notes/assumptions/5.md, 7.md). -/
def Obligations.StopReleasesTheKeyWait : Prop :=
  ∀ (x : Nibble) (s : State) (rest : List Turn), s.wait = some x → s.running = false →
    s.agenda = .executorObservesStop :: rest →
    ∃ t, step s = .next t ∧ t.wait = none ∧ t.keyWake = s.keyWake ∧ t.executorActive = false ∧
      t.running = false ∧ t.execHalted = s.execHalted ∧ t.tickActive = s.tickActive ∧ t.agenda = rest ∧
      Unchanged [.keyWait, .lifecycle, .agenda] s t

/-- `FX0A` as a whole (R227): issue, a press, wake: `V[X]` is the key of the press, and only then `pc` has moved on.
The protocol is the spec's decision D19; the turns are the agenda's (notes/assumptions/5.md). -/
def Obligations.KeyWaitEndsWithThePressedKey : Prop :=
  ∀ (x : Nibble) (code : Byte) (s : State) (rest : List Turn), code.toNat ≤ 15 →
    s.AboutToRun (encode (.ldKey x)) (.key .pressed code :: .executor :: rest) →
    ∃ t u w : State, step s = .next t ∧ step t = .next u ∧ step u = .next w ∧ t.pc = s.pc ∧ u.pc = s.pc ∧
      t.wait = some x ∧ u.wait = some x ∧ w.wait = none ∧ (w.reg x).toNat = code.toNat ∧ SameRegsBut [x] s w ∧
      w.pc = s.pc + 2 ∧ w.agenda = rest ∧ Unchanged [.regs, .pc, .keys, .keyWait, .agenda] s w

/-! ## Faults (60_exceptions.md) and whole-machine rules -/

/-- Every instruction, with every operand, in every state, answers a next state: the faults of the spec are next
states, and no rule calls a memory primitive outside its domain (R9). See notes/assumptions/16.md for the fault that
never happens. -/
def Obligations.EveryInstructionAnswersANextState : Prop :=
  ∀ (i : Instr) (s : State), ∃ t, exec i s = .next t

/-- A step of the machine ends in no fault, and is refused only where the host misuses the lifecycle, which has no
defined meaning (D28). That the model refuses there is its own choice (notes/assumptions/12.md), and so are the
turns and the steps that change nothing (5.md, 6.md). -/
def Obligations.StepStopsOnlyOnHostMisuse : Prop :=
  ∀ s : State, (∃ t, step s = .next t) ∨
    (∃ rest image, s.stopped = false ∧
      (s.agenda = .initMachine :: rest ∨ s.agenda = .load image :: rest ∨ s.agenda = .start :: rest) ∧
      ∃ r, step s = .refused r) ∨
    (∃ rest, s.running = false ∧ s.agenda = .stop :: rest ∧ step s = .refused .stopWhileNotRunning)

/-- R252, R254: an instruction that reports a fault has no other effect but `pc`, which is `pc + 2`, and unchanged
for `2NNN` and `00EE`; and only the instructions of R251 report. The `pc` of each is the spec's decision D11; the
fault mark is the model's field (notes/assumptions/9.md). -/
def Obligations.FaultsArePrecise : Prop :=
  ∀ (i : Instr) (s t : State), exec i s = .next t → t.reports ≠ s.reports →
    (∃ r, t.reports = s.reports ++ [r] ∧ r.marks = true ∧ r.fatal = false) ∧ t.faultMark = true ∧
    Unchanged [.reports, .pc] s t ∧
    ((i = .ret ∨ ∃ nnn, i = .call nnn) → t.pc = s.pc) ∧
    (¬(i = .ret ∨ ∃ nnn, i = .call nnn) → t.pc = s.pc + 2) ∧
    (i = .ret ∨ (∃ nnn, i = .call nnn) ∨ (∃ x y n, i = .drw x y n) ∨
      ∃ x, i = .bcd x ∨ i = .storeRegs x ∨ i = .loadRegs x ∨ i = .skp x ∨ i = .sknp x)

/-- R255: a step makes at most one report, at the end of the stream; only initialize empties the stream. The host's
turns are the agenda's (notes/assumptions/5.md). -/
def Obligations.AtMostOneReportPerStep : Prop :=
  ∀ s t : State, step s = .next t →
    t.reports = s.reports ∨ (∃ r, t.reports = s.reports ++ [r]) ∨
      (t.reports = [] ∧ ∃ rest, s.agenda = .initMachine :: rest)

/-- R267: the fault mark, once set, stays set, over every step. The mark is a field of the model's own, and no
initialize clears it (notes/assumptions/9.md). -/
def Obligations.FaultMarkIsNeverCleared : Prop :=
  ∀ s t : State, step s = .next t →
    (s.faultMark = true → t.faultMark = true) ∧
    (∀ r, t.reports = s.reports ++ [r] → t.faultMark = (s.faultMark || r.marks))

/-- The writers of each part of the state that an instruction can write (R20, R22, R23, R24, R31, R64, R204, R251),
and the parts no instruction can write (R36, R258). For the registers they are those of R20, each with the registers
it writes; FX0A, which R20 lists too, writes V[X] in its wake step and not in this one (KeyWaitWakeStoresAPress).
For `pc` they are the instructions whose rule is not "+2", a fault among them (D11). The counts of update events and
draws and the fault mark are the model's fields (notes/assumptions/10.md, 8.md, 9.md). -/
def Obligations.EachPartHasItsWriters : Prop :=
  ∀ (i : Instr) (s t : State), exec i s = .next t →
    (∀ y, t.reg y ≠ s.reg y →
      (∃ nn, i = .ldImm y nn ∨ i = .addImm y nn ∨ i = .rnd y nn) ∨
      (∃ z, i = .ldReg y z ∨ i = .orReg y z ∨ i = .andReg y z ∨ i = .xorReg y z) ∨
      (∃ x z, (y = x ∨ y = 0xF#4) ∧
        (i = .addReg x z ∨ i = .subReg x z ∨ i = .shrReg x z ∨ i = .subnReg x z ∨ i = .shlReg x z)) ∨
      (∃ x z n, y = 0xF#4 ∧ i = .drw x z n) ∨ i = .ldFromDelay y ∨
      ∃ x, y.toNat ≤ x.toNat ∧ i = .loadRegs x) ∧
    (t.pc ≠ s.pc + 2 → i = .ret ∨ (∃ nnn, i = .jp nnn ∨ i = .call nnn ∨ i = .jpV0 nnn) ∨
      (∃ x nn, i = .seImm x nn ∨ i = .sneImm x nn) ∨ (∃ x y, i = .seReg x y ∨ i = .sneReg x y) ∨
      ∃ x, i = .skp x ∨ i = .sknp x ∨ i = .ldKey x) ∧
    (t.reports ≠ s.reports ∨ t.faultMark ≠ s.faultMark → i = .ret ∨ (∃ nnn, i = .call nnn) ∨
      (∃ x y n, i = .drw x y n) ∨
      ∃ x, i = .bcd x ∨ i = .storeRegs x ∨ i = .loadRegs x ∨ i = .skp x ∨ i = .sknp x) ∧
    (t.display ≠ s.display ∨ t.fbUpdates ≠ s.fbUpdates → i = .cls ∨ ∃ x y n, i = .drw x y n) ∧
    (t.stack ≠ s.stack ∨ t.stackSize ≠ s.stackSize → i = .ret ∨ ∃ nnn, i = .call nnn) ∧
    (t.mem ≠ s.mem → ∃ x, i = .bcd x ∨ i = .storeRegs x) ∧
    (t.index ≠ s.index → (∃ nnn, i = .ldIndex nnn) ∨
      ∃ x, i = .addIndex x ∨ i = .ldFont x ∨ i = .storeRegs x ∨ i = .loadRegs x) ∧
    (t.delayTimer ≠ s.delayTimer → ∃ x, i = .ldDelay x) ∧
    (t.soundTimer ≠ s.soundTimer → ∃ x, i = .ldSound x) ∧
    (t.wait ≠ s.wait ∨ t.keyWake ≠ s.keyWake → ∃ x, i = .ldKey x) ∧
    (t.draws ≠ s.draws → ∃ x nn, i = .rnd x nn) ∧
    Unchanged [.regs, .index, .pc, .stack, .memory, .display, .delayTimer, .soundTimer, .keyWait, .reports,
      .fbUpdates, .draws] s t

/-- R36, R257: a step of the tick agent or of the key-event agent changes no `pc`, no register, no index, no memory,
no stack, no display and no RAND draw; a tick changes no key state and a key event no timer. The turns are the
agenda's, and a turn that observes a stop is the model's (notes/assumptions/5.md, 7.md). -/
def Obligations.OtherAgentsLeaveTheProgramAlone : Prop :=
  ∀ (s t : State) (rest : List Turn), step s = .next t →
    ((s.agenda = .tick :: rest ∨ s.agenda = .tickObservesStop :: rest) →
      t.running = s.running ∧ t.execHalted = s.execHalted ∧ t.executorActive = s.executorActive ∧
      Unchanged [.delayTimer, .soundTimer, .lifecycle, .agenda] s t) ∧
    (∀ kind code, s.agenda = .key kind code :: rest →
      t.wait = s.wait ∧ Unchanged [.keys, .keyWait, .reports, .agenda] s t)

/-- R75: over every step, `delayTimer` is at most what it was, unless the executor ran an `FX15` (by a turn of the
agenda or the default turn, notes/assumptions/5.md, 6.md). -/
def Obligations.DelayTimerRisesOnlyByAWrite : Prop :=
  ∀ s t : State, step s = .next t → s.delayTimer.toNat < t.delayTimer.toNat →
    ∃ (rest : List Turn) (x : Nibble), s.AboutToRun (encode (.ldDelay x)) rest ∧ t.delayTimer = s.reg x

/-! ## The host and the lifecycle (20_memory.md R79, 70_reset_and_hazards.md) -/

/-- load(bytes) (R79) on a Stopped machine. What it returns is the model's field `loadResult`
(notes/assumptions/11.md). -/
def Obligations.LoadCopiesTheImage : Prop :=
  ∀ (image : List Byte) (s : State) (rest : List Turn), s.stopped = true → s.agenda = .load image :: rest →
    (image.length ≤ 3584 →
      ∃ t, step s = .next t ∧ (∀ k, k < image.length → t.readByte (0x200 + k) = image[k]?) ∧
        SameMemoryBut 0x200 image.length s t ∧ t.loadResult = some .success ∧ t.agenda = rest ∧
        Unchanged [.memory, .loadResult, .agenda] s t) ∧
    (3584 < image.length →
      ∃ t, step s = .next t ∧ t.loadResult = some .configurationError ∧ t.agenda = rest ∧
        Unchanged [.loadResult, .agenda] s t)

/-- The state after reset is at the values of R39, and the executor and the tick agent have no step. The values are
the document's and the spec's decision D3. -/
def Obligations.ResetIsAtTheInitialValues : Prop :=
  State.AtInitialValues State.reset ∧ State.reset.stopped = true

/-- initialize on a Stopped machine (R290): every element back at its value of R39, FONT restored in memory,
`exec_halted` cleared. The values and the halt are the spec's decisions D3 and D21; that FONT is kept is DEDUCED,
and the turn is the agenda's (notes/assumptions/19.md, 5.md). -/
def Obligations.InitializeRestoresEveryElement : Prop :=
  ∀ (s : State) (rest : List Turn), s.stopped = true → s.agenda = .initMachine :: rest →
    ∃ t, step s = .next t ∧ State.AtInitialValues t ∧ t.font = s.font ∧ t.stopped = true ∧ t.agenda = rest

/-- start and stop (R291): each changes `running` only; a started machine has both agents, and resumes where it
ceased. That nothing else changes is the spec's decision D28; the turns, and the fields that hold which agents have not
ceased, are the model's (notes/assumptions/5.md, 7.md). -/
def Obligations.StartAndStopChangeRunningOnly : Prop :=
  ∀ (s : State) (rest : List Turn),
    (s.stopped = true → s.agenda = .start :: rest →
      ∃ t, step s = .next t ∧ t.running = true ∧ t.executorActive = true ∧ t.tickActive = true ∧
        t.execHalted = s.execHalted ∧ t.agenda = rest ∧ Unchanged [.lifecycle, .agenda] s t) ∧
    (s.running = true → s.agenda = .stop :: rest →
      ∃ t, step s = .next t ∧ t.running = false ∧ t.executorActive = s.executorActive ∧
        t.tickActive = s.tickActive ∧ t.execHalted = s.execHalted ∧ t.agenda = rest ∧
        Unchanged [.lifecycle, .agenda] s t)

/-- R291, R293: after a stop with no more input, the machine is Stopped within two steps, with no instruction and no
tick (the model's default turns, notes/assumptions/6.md), a pending key wait released; and on a Stopped machine no
turn of the executor or of the tick agent changes anything but which of them have ceased (the model's turns and
fields, 5.md, 7.md). -/
def Obligations.AgentsCeaseAfterStop : Prop :=
  (∀ s : State, s.running = false → s.agenda = [] →
    ∃ t u : State, step s = .next t ∧ step t = .next u ∧ u.stopped = true ∧ u.running = s.running ∧
      u.execHalted = s.execHalted ∧ u.executorActive = false ∧ u.tickActive = false ∧
      (s.executorActive = true → u.wait = none) ∧ (s.executorActive = false → u.wait = s.wait) ∧
      u.keyWake = s.keyWake ∧ Unchanged [.keyWait, .lifecycle] s u) ∧
  (∀ (s : State) (turn : Turn) (rest : List Turn), s.stopped = true → s.wait = none → s.agenda = turn :: rest →
    turn = .executor ∨ turn = .executorObservesStop ∨ turn = .tick ∨ turn = .tickObservesStop →
    ∃ t, step s = .next t ∧ t.stopped = true ∧ t.execHalted = s.execHalted ∧ t.agenda = rest ∧
      Unchanged [.lifecycle, .agenda] s t)

/-- R293: after the host has cleared `running`, at most one more tick: the tick agent has ceased after it. That is the
spec's decision D33; the turns are the agenda's, and a turn of a ceased agent changes nothing (notes/assumptions/5.md,
7.md). -/
def Obligations.AtMostOneTickAfterStop : Prop :=
  ∀ (s : State) (rest : List Turn), s.running = false → s.agenda = .tick :: .tick :: rest →
    ∃ t u : State, step s = .next t ∧ step t = .next u ∧
      t.delayTimer.toNat = (if s.tickActive = true then s.delayTimer.toNat - 1 else s.delayTimer.toNat) ∧
      t.soundTimer.toNat = (if s.tickActive = true then s.soundTimer.toNat - 1 else s.soundTimer.toNat) ∧
      t.tickActive = false ∧ u.agenda = rest ∧ Unchanged [.agenda] t u

/-! ## The invariant (10_state.md R37) -/

/-- The invariant holds after reset. The fields of the model's own that it speaks of are those of
notes/assumptions/7.md and 9.md. -/
def Obligations.ResetMeetsTheInvariant : Prop := State.reset.Inv

/-- The invariant is kept by every step of every agent, from every state that meets it. The fields of the model's own
that it speaks of are those of notes/assumptions/7.md and 9.md. -/
def Obligations.StepKeepsTheInvariant : Prop :=
  ∀ s t : State, s.Inv → step s = .next t → t.Inv
end

