-- ==== Sys2Proof/Laws/State.lean ====
section
/-! SUPPORT. One lemma for each field and each named update of State, all true by rfl, so that no later proof
unfolds a record update; and the composed updates in terms of the named ones. -/

namespace Sys2Proof.Machine

variable (s : State)

/-! ## Composed updates -/

@[simp] theorem State.advance_eq : s.advance = s.setPc (s.pc + 2) := rfl
@[simp] theorem State.skipIf_eq (c : Bool) : s.skipIf c = s.setPc (if c then s.pc + 4 else s.pc + 2) := rfl
@[simp] theorem State.setFlag_eq (flag : Byte) : s.setFlag flag = s.setReg 0xF#4 flag := rfl
@[simp] theorem State.finish_eq (x : Nibble) (b : Byte) :
    s.finish x b = (s.setReg x b).setPc (s.pc + 2) := rfl
@[simp] theorem State.finishWithFlag_eq (x : Nibble) (b flag : Byte) :
    s.finishWithFlag x b flag = ((s.setReg x b).setReg 0xF#4 flag).setPc (s.pc + 2) := rfl
@[simp] theorem State.bumpIndex_eq (x : Nibble) :
    s.bumpIndex x = s.setIndex (s.index + BitVec.ofNat 16 (blockLength x)) := rfl

/-! ## setPc -/

@[simp] theorem State.setPc_v (p : Word) : (s.setPc p).v = s.v := rfl
@[simp] theorem State.setPc_index (p : Word) : (s.setPc p).index = s.index := rfl
@[simp] theorem State.setPc_pc (p : Word) : (s.setPc p).pc = p := rfl
@[simp] theorem State.setPc_stack (p : Word) : (s.setPc p).stack = s.stack := rfl
@[simp] theorem State.setPc_stackSize (p : Word) : (s.setPc p).stackSize = s.stackSize := rfl
@[simp] theorem State.setPc_mem (p : Word) : (s.setPc p).mem = s.mem := rfl
@[simp] theorem State.setPc_font (p : Word) : (s.setPc p).font = s.font := rfl
@[simp] theorem State.setPc_display (p : Word) : (s.setPc p).display = s.display := rfl
@[simp] theorem State.setPc_keys (p : Word) : (s.setPc p).keys = s.keys := rfl
@[simp] theorem State.setPc_lastEvent (p : Word) : (s.setPc p).lastEvent = s.lastEvent := rfl
@[simp] theorem State.setPc_keyWake (p : Word) : (s.setPc p).keyWake = s.keyWake := rfl
@[simp] theorem State.setPc_delayTimer (p : Word) : (s.setPc p).delayTimer = s.delayTimer := rfl
@[simp] theorem State.setPc_soundTimer (p : Word) : (s.setPc p).soundTimer = s.soundTimer := rfl
@[simp] theorem State.setPc_running (p : Word) : (s.setPc p).running = s.running := rfl
@[simp] theorem State.setPc_execHalted (p : Word) : (s.setPc p).execHalted = s.execHalted := rfl
@[simp] theorem State.setPc_wait (p : Word) : (s.setPc p).wait = s.wait := rfl
@[simp] theorem State.setPc_reports (p : Word) : (s.setPc p).reports = s.reports := rfl
@[simp] theorem State.setPc_fbUpdates (p : Word) : (s.setPc p).fbUpdates = s.fbUpdates := rfl
@[simp] theorem State.setPc_loadResult (p : Word) : (s.setPc p).loadResult = s.loadResult := rfl
@[simp] theorem State.setPc_faultMark (p : Word) : (s.setPc p).faultMark = s.faultMark := rfl
@[simp] theorem State.setPc_executorActive (p : Word) : (s.setPc p).executorActive = s.executorActive := rfl
@[simp] theorem State.setPc_tickActive (p : Word) : (s.setPc p).tickActive = s.tickActive := rfl
@[simp] theorem State.setPc_draws (p : Word) : (s.setPc p).draws = s.draws := rfl
@[simp] theorem State.setPc_agenda (p : Word) : (s.setPc p).agenda = s.agenda := rfl
@[simp] theorem State.setPc_readByte (p : Word) (k : Nat) : (s.setPc p).readByte k = s.readByte k := rfl
@[simp] theorem State.setPc_reg (p : Word) (y : Nibble) : (s.setPc p).reg y = s.reg y := rfl

/-! ## setMem -/

@[simp] theorem State.setMem_v (m : Memory) : (s.setMem m).v = s.v := rfl
@[simp] theorem State.setMem_index (m : Memory) : (s.setMem m).index = s.index := rfl
@[simp] theorem State.setMem_pc (m : Memory) : (s.setMem m).pc = s.pc := rfl
@[simp] theorem State.setMem_stack (m : Memory) : (s.setMem m).stack = s.stack := rfl
@[simp] theorem State.setMem_stackSize (m : Memory) : (s.setMem m).stackSize = s.stackSize := rfl
@[simp] theorem State.setMem_mem (m : Memory) : (s.setMem m).mem = m := rfl
@[simp] theorem State.setMem_font (m : Memory) : (s.setMem m).font = s.font := rfl
@[simp] theorem State.setMem_display (m : Memory) : (s.setMem m).display = s.display := rfl
@[simp] theorem State.setMem_keys (m : Memory) : (s.setMem m).keys = s.keys := rfl
@[simp] theorem State.setMem_lastEvent (m : Memory) : (s.setMem m).lastEvent = s.lastEvent := rfl
@[simp] theorem State.setMem_keyWake (m : Memory) : (s.setMem m).keyWake = s.keyWake := rfl
@[simp] theorem State.setMem_delayTimer (m : Memory) : (s.setMem m).delayTimer = s.delayTimer := rfl
@[simp] theorem State.setMem_soundTimer (m : Memory) : (s.setMem m).soundTimer = s.soundTimer := rfl
@[simp] theorem State.setMem_running (m : Memory) : (s.setMem m).running = s.running := rfl
@[simp] theorem State.setMem_execHalted (m : Memory) : (s.setMem m).execHalted = s.execHalted := rfl
@[simp] theorem State.setMem_wait (m : Memory) : (s.setMem m).wait = s.wait := rfl
@[simp] theorem State.setMem_reports (m : Memory) : (s.setMem m).reports = s.reports := rfl
@[simp] theorem State.setMem_fbUpdates (m : Memory) : (s.setMem m).fbUpdates = s.fbUpdates := rfl
@[simp] theorem State.setMem_loadResult (m : Memory) : (s.setMem m).loadResult = s.loadResult := rfl
@[simp] theorem State.setMem_faultMark (m : Memory) : (s.setMem m).faultMark = s.faultMark := rfl
@[simp] theorem State.setMem_executorActive (m : Memory) : (s.setMem m).executorActive = s.executorActive := rfl
@[simp] theorem State.setMem_tickActive (m : Memory) : (s.setMem m).tickActive = s.tickActive := rfl
@[simp] theorem State.setMem_draws (m : Memory) : (s.setMem m).draws = s.draws := rfl
@[simp] theorem State.setMem_agenda (m : Memory) : (s.setMem m).agenda = s.agenda := rfl
@[simp] theorem State.setMem_reg (m : Memory) (y : Nibble) : (s.setMem m).reg y = s.reg y := rfl

/-! ## setIndex -/

@[simp] theorem State.setIndex_v (a : Word) : (s.setIndex a).v = s.v := rfl
@[simp] theorem State.setIndex_index (a : Word) : (s.setIndex a).index = a := rfl
@[simp] theorem State.setIndex_pc (a : Word) : (s.setIndex a).pc = s.pc := rfl
@[simp] theorem State.setIndex_stack (a : Word) : (s.setIndex a).stack = s.stack := rfl
@[simp] theorem State.setIndex_stackSize (a : Word) : (s.setIndex a).stackSize = s.stackSize := rfl
@[simp] theorem State.setIndex_mem (a : Word) : (s.setIndex a).mem = s.mem := rfl
@[simp] theorem State.setIndex_font (a : Word) : (s.setIndex a).font = s.font := rfl
@[simp] theorem State.setIndex_display (a : Word) : (s.setIndex a).display = s.display := rfl
@[simp] theorem State.setIndex_keys (a : Word) : (s.setIndex a).keys = s.keys := rfl
@[simp] theorem State.setIndex_lastEvent (a : Word) : (s.setIndex a).lastEvent = s.lastEvent := rfl
@[simp] theorem State.setIndex_keyWake (a : Word) : (s.setIndex a).keyWake = s.keyWake := rfl
@[simp] theorem State.setIndex_delayTimer (a : Word) : (s.setIndex a).delayTimer = s.delayTimer := rfl
@[simp] theorem State.setIndex_soundTimer (a : Word) : (s.setIndex a).soundTimer = s.soundTimer := rfl
@[simp] theorem State.setIndex_running (a : Word) : (s.setIndex a).running = s.running := rfl
@[simp] theorem State.setIndex_execHalted (a : Word) : (s.setIndex a).execHalted = s.execHalted := rfl
@[simp] theorem State.setIndex_wait (a : Word) : (s.setIndex a).wait = s.wait := rfl
@[simp] theorem State.setIndex_reports (a : Word) : (s.setIndex a).reports = s.reports := rfl
@[simp] theorem State.setIndex_fbUpdates (a : Word) : (s.setIndex a).fbUpdates = s.fbUpdates := rfl
@[simp] theorem State.setIndex_loadResult (a : Word) : (s.setIndex a).loadResult = s.loadResult := rfl
@[simp] theorem State.setIndex_faultMark (a : Word) : (s.setIndex a).faultMark = s.faultMark := rfl
@[simp] theorem State.setIndex_executorActive (a : Word) : (s.setIndex a).executorActive = s.executorActive := rfl
@[simp] theorem State.setIndex_tickActive (a : Word) : (s.setIndex a).tickActive = s.tickActive := rfl
@[simp] theorem State.setIndex_draws (a : Word) : (s.setIndex a).draws = s.draws := rfl
@[simp] theorem State.setIndex_agenda (a : Word) : (s.setIndex a).agenda = s.agenda := rfl
@[simp] theorem State.setIndex_readByte (a : Word) (k : Nat) : (s.setIndex a).readByte k = s.readByte k := rfl
@[simp] theorem State.setIndex_reg (a : Word) (y : Nibble) : (s.setIndex a).reg y = s.reg y := rfl

/-! ## setReg -/

@[simp] theorem State.setReg_v (x : Nibble) (b : Byte) : (s.setReg x b).v = s.v.set x.toNat b x.isLt := rfl
@[simp] theorem State.setReg_index (x : Nibble) (b : Byte) : (s.setReg x b).index = s.index := rfl
@[simp] theorem State.setReg_pc (x : Nibble) (b : Byte) : (s.setReg x b).pc = s.pc := rfl
@[simp] theorem State.setReg_stack (x : Nibble) (b : Byte) : (s.setReg x b).stack = s.stack := rfl
@[simp] theorem State.setReg_stackSize (x : Nibble) (b : Byte) : (s.setReg x b).stackSize = s.stackSize := rfl
@[simp] theorem State.setReg_mem (x : Nibble) (b : Byte) : (s.setReg x b).mem = s.mem := rfl
@[simp] theorem State.setReg_font (x : Nibble) (b : Byte) : (s.setReg x b).font = s.font := rfl
@[simp] theorem State.setReg_display (x : Nibble) (b : Byte) : (s.setReg x b).display = s.display := rfl
@[simp] theorem State.setReg_keys (x : Nibble) (b : Byte) : (s.setReg x b).keys = s.keys := rfl
@[simp] theorem State.setReg_lastEvent (x : Nibble) (b : Byte) : (s.setReg x b).lastEvent = s.lastEvent := rfl
@[simp] theorem State.setReg_keyWake (x : Nibble) (b : Byte) : (s.setReg x b).keyWake = s.keyWake := rfl
@[simp] theorem State.setReg_delayTimer (x : Nibble) (b : Byte) : (s.setReg x b).delayTimer = s.delayTimer := rfl
@[simp] theorem State.setReg_soundTimer (x : Nibble) (b : Byte) : (s.setReg x b).soundTimer = s.soundTimer := rfl
@[simp] theorem State.setReg_running (x : Nibble) (b : Byte) : (s.setReg x b).running = s.running := rfl
@[simp] theorem State.setReg_execHalted (x : Nibble) (b : Byte) : (s.setReg x b).execHalted = s.execHalted := rfl
@[simp] theorem State.setReg_wait (x : Nibble) (b : Byte) : (s.setReg x b).wait = s.wait := rfl
@[simp] theorem State.setReg_reports (x : Nibble) (b : Byte) : (s.setReg x b).reports = s.reports := rfl
@[simp] theorem State.setReg_fbUpdates (x : Nibble) (b : Byte) : (s.setReg x b).fbUpdates = s.fbUpdates := rfl
@[simp] theorem State.setReg_loadResult (x : Nibble) (b : Byte) : (s.setReg x b).loadResult = s.loadResult := rfl
@[simp] theorem State.setReg_faultMark (x : Nibble) (b : Byte) : (s.setReg x b).faultMark = s.faultMark := rfl
@[simp] theorem State.setReg_executorActive (x : Nibble) (b : Byte) : (s.setReg x b).executorActive = s.executorActive := rfl
@[simp] theorem State.setReg_tickActive (x : Nibble) (b : Byte) : (s.setReg x b).tickActive = s.tickActive := rfl
@[simp] theorem State.setReg_draws (x : Nibble) (b : Byte) : (s.setReg x b).draws = s.draws := rfl
@[simp] theorem State.setReg_agenda (x : Nibble) (b : Byte) : (s.setReg x b).agenda = s.agenda := rfl
@[simp] theorem State.setReg_readByte (x : Nibble) (b : Byte) (k : Nat) : (s.setReg x b).readByte k = s.readByte k := rfl

/-! ## setDisplay -/

@[simp] theorem State.setDisplay_v (d : Display) : (s.setDisplay d).v = s.v := rfl
@[simp] theorem State.setDisplay_index (d : Display) : (s.setDisplay d).index = s.index := rfl
@[simp] theorem State.setDisplay_pc (d : Display) : (s.setDisplay d).pc = s.pc := rfl
@[simp] theorem State.setDisplay_stack (d : Display) : (s.setDisplay d).stack = s.stack := rfl
@[simp] theorem State.setDisplay_stackSize (d : Display) : (s.setDisplay d).stackSize = s.stackSize := rfl
@[simp] theorem State.setDisplay_mem (d : Display) : (s.setDisplay d).mem = s.mem := rfl
@[simp] theorem State.setDisplay_font (d : Display) : (s.setDisplay d).font = s.font := rfl
@[simp] theorem State.setDisplay_display (d : Display) : (s.setDisplay d).display = d := rfl
@[simp] theorem State.setDisplay_keys (d : Display) : (s.setDisplay d).keys = s.keys := rfl
@[simp] theorem State.setDisplay_lastEvent (d : Display) : (s.setDisplay d).lastEvent = s.lastEvent := rfl
@[simp] theorem State.setDisplay_keyWake (d : Display) : (s.setDisplay d).keyWake = s.keyWake := rfl
@[simp] theorem State.setDisplay_delayTimer (d : Display) : (s.setDisplay d).delayTimer = s.delayTimer := rfl
@[simp] theorem State.setDisplay_soundTimer (d : Display) : (s.setDisplay d).soundTimer = s.soundTimer := rfl
@[simp] theorem State.setDisplay_running (d : Display) : (s.setDisplay d).running = s.running := rfl
@[simp] theorem State.setDisplay_execHalted (d : Display) : (s.setDisplay d).execHalted = s.execHalted := rfl
@[simp] theorem State.setDisplay_wait (d : Display) : (s.setDisplay d).wait = s.wait := rfl
@[simp] theorem State.setDisplay_reports (d : Display) : (s.setDisplay d).reports = s.reports := rfl
@[simp] theorem State.setDisplay_fbUpdates (d : Display) : (s.setDisplay d).fbUpdates = s.fbUpdates := rfl
@[simp] theorem State.setDisplay_loadResult (d : Display) : (s.setDisplay d).loadResult = s.loadResult := rfl
@[simp] theorem State.setDisplay_faultMark (d : Display) : (s.setDisplay d).faultMark = s.faultMark := rfl
@[simp] theorem State.setDisplay_executorActive (d : Display) : (s.setDisplay d).executorActive = s.executorActive := rfl
@[simp] theorem State.setDisplay_tickActive (d : Display) : (s.setDisplay d).tickActive = s.tickActive := rfl
@[simp] theorem State.setDisplay_draws (d : Display) : (s.setDisplay d).draws = s.draws := rfl
@[simp] theorem State.setDisplay_agenda (d : Display) : (s.setDisplay d).agenda = s.agenda := rfl
@[simp] theorem State.setDisplay_readByte (d : Display) (k : Nat) : (s.setDisplay d).readByte k = s.readByte k := rfl
@[simp] theorem State.setDisplay_reg (d : Display) (y : Nibble) : (s.setDisplay d).reg y = s.reg y := rfl

/-! ## setDelay -/

@[simp] theorem State.setDelay_v (b : Byte) : (s.setDelay b).v = s.v := rfl
@[simp] theorem State.setDelay_index (b : Byte) : (s.setDelay b).index = s.index := rfl
@[simp] theorem State.setDelay_pc (b : Byte) : (s.setDelay b).pc = s.pc := rfl
@[simp] theorem State.setDelay_stack (b : Byte) : (s.setDelay b).stack = s.stack := rfl
@[simp] theorem State.setDelay_stackSize (b : Byte) : (s.setDelay b).stackSize = s.stackSize := rfl
@[simp] theorem State.setDelay_mem (b : Byte) : (s.setDelay b).mem = s.mem := rfl
@[simp] theorem State.setDelay_font (b : Byte) : (s.setDelay b).font = s.font := rfl
@[simp] theorem State.setDelay_display (b : Byte) : (s.setDelay b).display = s.display := rfl
@[simp] theorem State.setDelay_keys (b : Byte) : (s.setDelay b).keys = s.keys := rfl
@[simp] theorem State.setDelay_lastEvent (b : Byte) : (s.setDelay b).lastEvent = s.lastEvent := rfl
@[simp] theorem State.setDelay_keyWake (b : Byte) : (s.setDelay b).keyWake = s.keyWake := rfl
@[simp] theorem State.setDelay_delayTimer (b : Byte) : (s.setDelay b).delayTimer = b := rfl
@[simp] theorem State.setDelay_soundTimer (b : Byte) : (s.setDelay b).soundTimer = s.soundTimer := rfl
@[simp] theorem State.setDelay_running (b : Byte) : (s.setDelay b).running = s.running := rfl
@[simp] theorem State.setDelay_execHalted (b : Byte) : (s.setDelay b).execHalted = s.execHalted := rfl
@[simp] theorem State.setDelay_wait (b : Byte) : (s.setDelay b).wait = s.wait := rfl
@[simp] theorem State.setDelay_reports (b : Byte) : (s.setDelay b).reports = s.reports := rfl
@[simp] theorem State.setDelay_fbUpdates (b : Byte) : (s.setDelay b).fbUpdates = s.fbUpdates := rfl
@[simp] theorem State.setDelay_loadResult (b : Byte) : (s.setDelay b).loadResult = s.loadResult := rfl
@[simp] theorem State.setDelay_faultMark (b : Byte) : (s.setDelay b).faultMark = s.faultMark := rfl
@[simp] theorem State.setDelay_executorActive (b : Byte) : (s.setDelay b).executorActive = s.executorActive := rfl
@[simp] theorem State.setDelay_tickActive (b : Byte) : (s.setDelay b).tickActive = s.tickActive := rfl
@[simp] theorem State.setDelay_draws (b : Byte) : (s.setDelay b).draws = s.draws := rfl
@[simp] theorem State.setDelay_agenda (b : Byte) : (s.setDelay b).agenda = s.agenda := rfl
@[simp] theorem State.setDelay_readByte (b : Byte) (k : Nat) : (s.setDelay b).readByte k = s.readByte k := rfl
@[simp] theorem State.setDelay_reg (b : Byte) (y : Nibble) : (s.setDelay b).reg y = s.reg y := rfl

/-! ## setSound -/

@[simp] theorem State.setSound_v (b : Byte) : (s.setSound b).v = s.v := rfl
@[simp] theorem State.setSound_index (b : Byte) : (s.setSound b).index = s.index := rfl
@[simp] theorem State.setSound_pc (b : Byte) : (s.setSound b).pc = s.pc := rfl
@[simp] theorem State.setSound_stack (b : Byte) : (s.setSound b).stack = s.stack := rfl
@[simp] theorem State.setSound_stackSize (b : Byte) : (s.setSound b).stackSize = s.stackSize := rfl
@[simp] theorem State.setSound_mem (b : Byte) : (s.setSound b).mem = s.mem := rfl
@[simp] theorem State.setSound_font (b : Byte) : (s.setSound b).font = s.font := rfl
@[simp] theorem State.setSound_display (b : Byte) : (s.setSound b).display = s.display := rfl
@[simp] theorem State.setSound_keys (b : Byte) : (s.setSound b).keys = s.keys := rfl
@[simp] theorem State.setSound_lastEvent (b : Byte) : (s.setSound b).lastEvent = s.lastEvent := rfl
@[simp] theorem State.setSound_keyWake (b : Byte) : (s.setSound b).keyWake = s.keyWake := rfl
@[simp] theorem State.setSound_delayTimer (b : Byte) : (s.setSound b).delayTimer = s.delayTimer := rfl
@[simp] theorem State.setSound_soundTimer (b : Byte) : (s.setSound b).soundTimer = b := rfl
@[simp] theorem State.setSound_running (b : Byte) : (s.setSound b).running = s.running := rfl
@[simp] theorem State.setSound_execHalted (b : Byte) : (s.setSound b).execHalted = s.execHalted := rfl
@[simp] theorem State.setSound_wait (b : Byte) : (s.setSound b).wait = s.wait := rfl
@[simp] theorem State.setSound_reports (b : Byte) : (s.setSound b).reports = s.reports := rfl
@[simp] theorem State.setSound_fbUpdates (b : Byte) : (s.setSound b).fbUpdates = s.fbUpdates := rfl
@[simp] theorem State.setSound_loadResult (b : Byte) : (s.setSound b).loadResult = s.loadResult := rfl
@[simp] theorem State.setSound_faultMark (b : Byte) : (s.setSound b).faultMark = s.faultMark := rfl
@[simp] theorem State.setSound_executorActive (b : Byte) : (s.setSound b).executorActive = s.executorActive := rfl
@[simp] theorem State.setSound_tickActive (b : Byte) : (s.setSound b).tickActive = s.tickActive := rfl
@[simp] theorem State.setSound_draws (b : Byte) : (s.setSound b).draws = s.draws := rfl
@[simp] theorem State.setSound_agenda (b : Byte) : (s.setSound b).agenda = s.agenda := rfl
@[simp] theorem State.setSound_readByte (b : Byte) (k : Nat) : (s.setSound b).readByte k = s.readByte k := rfl
@[simp] theorem State.setSound_reg (b : Byte) (y : Nibble) : (s.setSound b).reg y = s.reg y := rfl

/-! ## setWait -/

@[simp] theorem State.setWait_v (w : Option Nibble) : (s.setWait w).v = s.v := rfl
@[simp] theorem State.setWait_index (w : Option Nibble) : (s.setWait w).index = s.index := rfl
@[simp] theorem State.setWait_pc (w : Option Nibble) : (s.setWait w).pc = s.pc := rfl
@[simp] theorem State.setWait_stack (w : Option Nibble) : (s.setWait w).stack = s.stack := rfl
@[simp] theorem State.setWait_stackSize (w : Option Nibble) : (s.setWait w).stackSize = s.stackSize := rfl
@[simp] theorem State.setWait_mem (w : Option Nibble) : (s.setWait w).mem = s.mem := rfl
@[simp] theorem State.setWait_font (w : Option Nibble) : (s.setWait w).font = s.font := rfl
@[simp] theorem State.setWait_display (w : Option Nibble) : (s.setWait w).display = s.display := rfl
@[simp] theorem State.setWait_keys (w : Option Nibble) : (s.setWait w).keys = s.keys := rfl
@[simp] theorem State.setWait_lastEvent (w : Option Nibble) : (s.setWait w).lastEvent = s.lastEvent := rfl
@[simp] theorem State.setWait_keyWake (w : Option Nibble) : (s.setWait w).keyWake = s.keyWake := rfl
@[simp] theorem State.setWait_delayTimer (w : Option Nibble) : (s.setWait w).delayTimer = s.delayTimer := rfl
@[simp] theorem State.setWait_soundTimer (w : Option Nibble) : (s.setWait w).soundTimer = s.soundTimer := rfl
@[simp] theorem State.setWait_running (w : Option Nibble) : (s.setWait w).running = s.running := rfl
@[simp] theorem State.setWait_execHalted (w : Option Nibble) : (s.setWait w).execHalted = s.execHalted := rfl
@[simp] theorem State.setWait_wait (w : Option Nibble) : (s.setWait w).wait = w := rfl
@[simp] theorem State.setWait_reports (w : Option Nibble) : (s.setWait w).reports = s.reports := rfl
@[simp] theorem State.setWait_fbUpdates (w : Option Nibble) : (s.setWait w).fbUpdates = s.fbUpdates := rfl
@[simp] theorem State.setWait_loadResult (w : Option Nibble) : (s.setWait w).loadResult = s.loadResult := rfl
@[simp] theorem State.setWait_faultMark (w : Option Nibble) : (s.setWait w).faultMark = s.faultMark := rfl
@[simp] theorem State.setWait_executorActive (w : Option Nibble) : (s.setWait w).executorActive = s.executorActive := rfl
@[simp] theorem State.setWait_tickActive (w : Option Nibble) : (s.setWait w).tickActive = s.tickActive := rfl
@[simp] theorem State.setWait_draws (w : Option Nibble) : (s.setWait w).draws = s.draws := rfl
@[simp] theorem State.setWait_agenda (w : Option Nibble) : (s.setWait w).agenda = s.agenda := rfl
@[simp] theorem State.setWait_readByte (w : Option Nibble) (k : Nat) : (s.setWait w).readByte k = s.readByte k := rfl
@[simp] theorem State.setWait_reg (w : Option Nibble) (y : Nibble) : (s.setWait w).reg y = s.reg y := rfl

/-! ## setKeyWake -/

@[simp] theorem State.setKeyWake_v (c : Bool) : (s.setKeyWake c).v = s.v := rfl
@[simp] theorem State.setKeyWake_index (c : Bool) : (s.setKeyWake c).index = s.index := rfl
@[simp] theorem State.setKeyWake_pc (c : Bool) : (s.setKeyWake c).pc = s.pc := rfl
@[simp] theorem State.setKeyWake_stack (c : Bool) : (s.setKeyWake c).stack = s.stack := rfl
@[simp] theorem State.setKeyWake_stackSize (c : Bool) : (s.setKeyWake c).stackSize = s.stackSize := rfl
@[simp] theorem State.setKeyWake_mem (c : Bool) : (s.setKeyWake c).mem = s.mem := rfl
@[simp] theorem State.setKeyWake_font (c : Bool) : (s.setKeyWake c).font = s.font := rfl
@[simp] theorem State.setKeyWake_display (c : Bool) : (s.setKeyWake c).display = s.display := rfl
@[simp] theorem State.setKeyWake_keys (c : Bool) : (s.setKeyWake c).keys = s.keys := rfl
@[simp] theorem State.setKeyWake_lastEvent (c : Bool) : (s.setKeyWake c).lastEvent = s.lastEvent := rfl
@[simp] theorem State.setKeyWake_keyWake (c : Bool) : (s.setKeyWake c).keyWake = c := rfl
@[simp] theorem State.setKeyWake_delayTimer (c : Bool) : (s.setKeyWake c).delayTimer = s.delayTimer := rfl
@[simp] theorem State.setKeyWake_soundTimer (c : Bool) : (s.setKeyWake c).soundTimer = s.soundTimer := rfl
@[simp] theorem State.setKeyWake_running (c : Bool) : (s.setKeyWake c).running = s.running := rfl
@[simp] theorem State.setKeyWake_execHalted (c : Bool) : (s.setKeyWake c).execHalted = s.execHalted := rfl
@[simp] theorem State.setKeyWake_wait (c : Bool) : (s.setKeyWake c).wait = s.wait := rfl
@[simp] theorem State.setKeyWake_reports (c : Bool) : (s.setKeyWake c).reports = s.reports := rfl
@[simp] theorem State.setKeyWake_fbUpdates (c : Bool) : (s.setKeyWake c).fbUpdates = s.fbUpdates := rfl
@[simp] theorem State.setKeyWake_loadResult (c : Bool) : (s.setKeyWake c).loadResult = s.loadResult := rfl
@[simp] theorem State.setKeyWake_faultMark (c : Bool) : (s.setKeyWake c).faultMark = s.faultMark := rfl
@[simp] theorem State.setKeyWake_executorActive (c : Bool) : (s.setKeyWake c).executorActive = s.executorActive := rfl
@[simp] theorem State.setKeyWake_tickActive (c : Bool) : (s.setKeyWake c).tickActive = s.tickActive := rfl
@[simp] theorem State.setKeyWake_draws (c : Bool) : (s.setKeyWake c).draws = s.draws := rfl
@[simp] theorem State.setKeyWake_agenda (c : Bool) : (s.setKeyWake c).agenda = s.agenda := rfl
@[simp] theorem State.setKeyWake_readByte (c : Bool) (k : Nat) : (s.setKeyWake c).readByte k = s.readByte k := rfl
@[simp] theorem State.setKeyWake_reg (c : Bool) (y : Nibble) : (s.setKeyWake c).reg y = s.reg y := rfl

/-! ## fbUpdate -/

@[simp] theorem State.fbUpdate_v : (s.fbUpdate).v = s.v := rfl
@[simp] theorem State.fbUpdate_index : (s.fbUpdate).index = s.index := rfl
@[simp] theorem State.fbUpdate_pc : (s.fbUpdate).pc = s.pc := rfl
@[simp] theorem State.fbUpdate_stack : (s.fbUpdate).stack = s.stack := rfl
@[simp] theorem State.fbUpdate_stackSize : (s.fbUpdate).stackSize = s.stackSize := rfl
@[simp] theorem State.fbUpdate_mem : (s.fbUpdate).mem = s.mem := rfl
@[simp] theorem State.fbUpdate_font : (s.fbUpdate).font = s.font := rfl
@[simp] theorem State.fbUpdate_display : (s.fbUpdate).display = s.display := rfl
@[simp] theorem State.fbUpdate_keys : (s.fbUpdate).keys = s.keys := rfl
@[simp] theorem State.fbUpdate_lastEvent : (s.fbUpdate).lastEvent = s.lastEvent := rfl
@[simp] theorem State.fbUpdate_keyWake : (s.fbUpdate).keyWake = s.keyWake := rfl
@[simp] theorem State.fbUpdate_delayTimer : (s.fbUpdate).delayTimer = s.delayTimer := rfl
@[simp] theorem State.fbUpdate_soundTimer : (s.fbUpdate).soundTimer = s.soundTimer := rfl
@[simp] theorem State.fbUpdate_running : (s.fbUpdate).running = s.running := rfl
@[simp] theorem State.fbUpdate_execHalted : (s.fbUpdate).execHalted = s.execHalted := rfl
@[simp] theorem State.fbUpdate_wait : (s.fbUpdate).wait = s.wait := rfl
@[simp] theorem State.fbUpdate_reports : (s.fbUpdate).reports = s.reports := rfl
@[simp] theorem State.fbUpdate_fbUpdates : (s.fbUpdate).fbUpdates = s.fbUpdates + 1 := rfl
@[simp] theorem State.fbUpdate_loadResult : (s.fbUpdate).loadResult = s.loadResult := rfl
@[simp] theorem State.fbUpdate_faultMark : (s.fbUpdate).faultMark = s.faultMark := rfl
@[simp] theorem State.fbUpdate_executorActive : (s.fbUpdate).executorActive = s.executorActive := rfl
@[simp] theorem State.fbUpdate_tickActive : (s.fbUpdate).tickActive = s.tickActive := rfl
@[simp] theorem State.fbUpdate_draws : (s.fbUpdate).draws = s.draws := rfl
@[simp] theorem State.fbUpdate_agenda : (s.fbUpdate).agenda = s.agenda := rfl
@[simp] theorem State.fbUpdate_readByte (k : Nat) : (s.fbUpdate).readByte k = s.readByte k := rfl
@[simp] theorem State.fbUpdate_reg (y : Nibble) : (s.fbUpdate).reg y = s.reg y := rfl

/-! ## countDraw -/

@[simp] theorem State.countDraw_v : (s.countDraw).v = s.v := rfl
@[simp] theorem State.countDraw_index : (s.countDraw).index = s.index := rfl
@[simp] theorem State.countDraw_pc : (s.countDraw).pc = s.pc := rfl
@[simp] theorem State.countDraw_stack : (s.countDraw).stack = s.stack := rfl
@[simp] theorem State.countDraw_stackSize : (s.countDraw).stackSize = s.stackSize := rfl
@[simp] theorem State.countDraw_mem : (s.countDraw).mem = s.mem := rfl
@[simp] theorem State.countDraw_font : (s.countDraw).font = s.font := rfl
@[simp] theorem State.countDraw_display : (s.countDraw).display = s.display := rfl
@[simp] theorem State.countDraw_keys : (s.countDraw).keys = s.keys := rfl
@[simp] theorem State.countDraw_lastEvent : (s.countDraw).lastEvent = s.lastEvent := rfl
@[simp] theorem State.countDraw_keyWake : (s.countDraw).keyWake = s.keyWake := rfl
@[simp] theorem State.countDraw_delayTimer : (s.countDraw).delayTimer = s.delayTimer := rfl
@[simp] theorem State.countDraw_soundTimer : (s.countDraw).soundTimer = s.soundTimer := rfl
@[simp] theorem State.countDraw_running : (s.countDraw).running = s.running := rfl
@[simp] theorem State.countDraw_execHalted : (s.countDraw).execHalted = s.execHalted := rfl
@[simp] theorem State.countDraw_wait : (s.countDraw).wait = s.wait := rfl
@[simp] theorem State.countDraw_reports : (s.countDraw).reports = s.reports := rfl
@[simp] theorem State.countDraw_fbUpdates : (s.countDraw).fbUpdates = s.fbUpdates := rfl
@[simp] theorem State.countDraw_loadResult : (s.countDraw).loadResult = s.loadResult := rfl
@[simp] theorem State.countDraw_faultMark : (s.countDraw).faultMark = s.faultMark := rfl
@[simp] theorem State.countDraw_executorActive : (s.countDraw).executorActive = s.executorActive := rfl
@[simp] theorem State.countDraw_tickActive : (s.countDraw).tickActive = s.tickActive := rfl
@[simp] theorem State.countDraw_draws : (s.countDraw).draws = s.draws + 1 := rfl
@[simp] theorem State.countDraw_agenda : (s.countDraw).agenda = s.agenda := rfl
@[simp] theorem State.countDraw_readByte (k : Nat) : (s.countDraw).readByte k = s.readByte k := rfl
@[simp] theorem State.countDraw_reg (y : Nibble) : (s.countDraw).reg y = s.reg y := rfl

/-! ## report -/

@[simp] theorem State.report_v (r : Report) : (s.report r).v = s.v := rfl
@[simp] theorem State.report_index (r : Report) : (s.report r).index = s.index := rfl
@[simp] theorem State.report_pc (r : Report) : (s.report r).pc = s.pc := rfl
@[simp] theorem State.report_stack (r : Report) : (s.report r).stack = s.stack := rfl
@[simp] theorem State.report_stackSize (r : Report) : (s.report r).stackSize = s.stackSize := rfl
@[simp] theorem State.report_mem (r : Report) : (s.report r).mem = s.mem := rfl
@[simp] theorem State.report_font (r : Report) : (s.report r).font = s.font := rfl
@[simp] theorem State.report_display (r : Report) : (s.report r).display = s.display := rfl
@[simp] theorem State.report_keys (r : Report) : (s.report r).keys = s.keys := rfl
@[simp] theorem State.report_lastEvent (r : Report) : (s.report r).lastEvent = s.lastEvent := rfl
@[simp] theorem State.report_keyWake (r : Report) : (s.report r).keyWake = s.keyWake := rfl
@[simp] theorem State.report_delayTimer (r : Report) : (s.report r).delayTimer = s.delayTimer := rfl
@[simp] theorem State.report_soundTimer (r : Report) : (s.report r).soundTimer = s.soundTimer := rfl
@[simp] theorem State.report_running (r : Report) : (s.report r).running = s.running := rfl
@[simp] theorem State.report_execHalted (r : Report) : (s.report r).execHalted = s.execHalted := rfl
@[simp] theorem State.report_wait (r : Report) : (s.report r).wait = s.wait := rfl
@[simp] theorem State.report_reports (r : Report) : (s.report r).reports = s.reports ++ [r] := rfl
@[simp] theorem State.report_fbUpdates (r : Report) : (s.report r).fbUpdates = s.fbUpdates := rfl
@[simp] theorem State.report_loadResult (r : Report) : (s.report r).loadResult = s.loadResult := rfl
@[simp] theorem State.report_faultMark (r : Report) : (s.report r).faultMark = (s.faultMark || r.marks) := rfl
@[simp] theorem State.report_executorActive (r : Report) : (s.report r).executorActive = s.executorActive := rfl
@[simp] theorem State.report_tickActive (r : Report) : (s.report r).tickActive = s.tickActive := rfl
@[simp] theorem State.report_draws (r : Report) : (s.report r).draws = s.draws := rfl
@[simp] theorem State.report_agenda (r : Report) : (s.report r).agenda = s.agenda := rfl
@[simp] theorem State.report_readByte (r : Report) (k : Nat) : (s.report r).readByte k = s.readByte k := rfl
@[simp] theorem State.report_reg (r : Report) (y : Nibble) : (s.report r).reg y = s.reg y := rfl

/-! ## raise -/

@[simp] theorem State.raise_v (r : Report) : (s.raise r).v = s.v := rfl
@[simp] theorem State.raise_index (r : Report) : (s.raise r).index = s.index := rfl
@[simp] theorem State.raise_pc (r : Report) : (s.raise r).pc = r.pcAfter s.pc := rfl
@[simp] theorem State.raise_stack (r : Report) : (s.raise r).stack = s.stack := rfl
@[simp] theorem State.raise_stackSize (r : Report) : (s.raise r).stackSize = s.stackSize := rfl
@[simp] theorem State.raise_mem (r : Report) : (s.raise r).mem = s.mem := rfl
@[simp] theorem State.raise_font (r : Report) : (s.raise r).font = s.font := rfl
@[simp] theorem State.raise_display (r : Report) : (s.raise r).display = s.display := rfl
@[simp] theorem State.raise_keys (r : Report) : (s.raise r).keys = s.keys := rfl
@[simp] theorem State.raise_lastEvent (r : Report) : (s.raise r).lastEvent = s.lastEvent := rfl
@[simp] theorem State.raise_keyWake (r : Report) : (s.raise r).keyWake = s.keyWake := rfl
@[simp] theorem State.raise_delayTimer (r : Report) : (s.raise r).delayTimer = s.delayTimer := rfl
@[simp] theorem State.raise_soundTimer (r : Report) : (s.raise r).soundTimer = s.soundTimer := rfl
@[simp] theorem State.raise_running (r : Report) : (s.raise r).running = s.running := rfl
@[simp] theorem State.raise_execHalted (r : Report) : (s.raise r).execHalted = (s.execHalted || r.fatal) := rfl
@[simp] theorem State.raise_wait (r : Report) : (s.raise r).wait = s.wait := rfl
@[simp] theorem State.raise_reports (r : Report) : (s.raise r).reports = s.reports ++ [r] := rfl
@[simp] theorem State.raise_fbUpdates (r : Report) : (s.raise r).fbUpdates = s.fbUpdates := rfl
@[simp] theorem State.raise_loadResult (r : Report) : (s.raise r).loadResult = s.loadResult := rfl
@[simp] theorem State.raise_faultMark (r : Report) : (s.raise r).faultMark = (s.faultMark || r.marks) := rfl
@[simp] theorem State.raise_executorActive (r : Report) : (s.raise r).executorActive = s.executorActive := rfl
@[simp] theorem State.raise_tickActive (r : Report) : (s.raise r).tickActive = s.tickActive := rfl
@[simp] theorem State.raise_draws (r : Report) : (s.raise r).draws = s.draws := rfl
@[simp] theorem State.raise_agenda (r : Report) : (s.raise r).agenda = s.agenda := rfl
@[simp] theorem State.raise_readByte (r : Report) (k : Nat) : (s.raise r).readByte k = s.readByte k := rfl
@[simp] theorem State.raise_reg (r : Report) (y : Nibble) : (s.raise r).reg y = s.reg y := rfl

/-! ## setRegs -/

@[simp] theorem State.setRegs_v (v : Vector Byte 16) : (s.setRegs v).v = v := rfl
@[simp] theorem State.setRegs_index (v : Vector Byte 16) : (s.setRegs v).index = s.index := rfl
@[simp] theorem State.setRegs_pc (v : Vector Byte 16) : (s.setRegs v).pc = s.pc := rfl
@[simp] theorem State.setRegs_stack (v : Vector Byte 16) : (s.setRegs v).stack = s.stack := rfl
@[simp] theorem State.setRegs_stackSize (v : Vector Byte 16) : (s.setRegs v).stackSize = s.stackSize := rfl
@[simp] theorem State.setRegs_mem (v : Vector Byte 16) : (s.setRegs v).mem = s.mem := rfl
@[simp] theorem State.setRegs_font (v : Vector Byte 16) : (s.setRegs v).font = s.font := rfl
@[simp] theorem State.setRegs_display (v : Vector Byte 16) : (s.setRegs v).display = s.display := rfl
@[simp] theorem State.setRegs_keys (v : Vector Byte 16) : (s.setRegs v).keys = s.keys := rfl
@[simp] theorem State.setRegs_lastEvent (v : Vector Byte 16) : (s.setRegs v).lastEvent = s.lastEvent := rfl
@[simp] theorem State.setRegs_keyWake (v : Vector Byte 16) : (s.setRegs v).keyWake = s.keyWake := rfl
@[simp] theorem State.setRegs_delayTimer (v : Vector Byte 16) : (s.setRegs v).delayTimer = s.delayTimer := rfl
@[simp] theorem State.setRegs_soundTimer (v : Vector Byte 16) : (s.setRegs v).soundTimer = s.soundTimer := rfl
@[simp] theorem State.setRegs_running (v : Vector Byte 16) : (s.setRegs v).running = s.running := rfl
@[simp] theorem State.setRegs_execHalted (v : Vector Byte 16) : (s.setRegs v).execHalted = s.execHalted := rfl
@[simp] theorem State.setRegs_wait (v : Vector Byte 16) : (s.setRegs v).wait = s.wait := rfl
@[simp] theorem State.setRegs_reports (v : Vector Byte 16) : (s.setRegs v).reports = s.reports := rfl
@[simp] theorem State.setRegs_fbUpdates (v : Vector Byte 16) : (s.setRegs v).fbUpdates = s.fbUpdates := rfl
@[simp] theorem State.setRegs_loadResult (v : Vector Byte 16) : (s.setRegs v).loadResult = s.loadResult := rfl
@[simp] theorem State.setRegs_faultMark (v : Vector Byte 16) : (s.setRegs v).faultMark = s.faultMark := rfl
@[simp] theorem State.setRegs_executorActive (v : Vector Byte 16) : (s.setRegs v).executorActive = s.executorActive := rfl
@[simp] theorem State.setRegs_tickActive (v : Vector Byte 16) : (s.setRegs v).tickActive = s.tickActive := rfl
@[simp] theorem State.setRegs_draws (v : Vector Byte 16) : (s.setRegs v).draws = s.draws := rfl
@[simp] theorem State.setRegs_agenda (v : Vector Byte 16) : (s.setRegs v).agenda = s.agenda := rfl
@[simp] theorem State.setRegs_readByte (v : Vector Byte 16) (k : Nat) : (s.setRegs v).readByte k = s.readByte k := rfl
@[simp] theorem State.setRegs_reg (v : Vector Byte 16) (y : Nibble) : (s.setRegs v).reg y = v[y.toNat] := rfl

/-! ## setStack -/

@[simp] theorem State.setStack_v (st : Vector Word 48) (n : Fin 49) : (s.setStack st n).v = s.v := rfl
@[simp] theorem State.setStack_index (st : Vector Word 48) (n : Fin 49) : (s.setStack st n).index = s.index := rfl
@[simp] theorem State.setStack_pc (st : Vector Word 48) (n : Fin 49) : (s.setStack st n).pc = s.pc := rfl
@[simp] theorem State.setStack_stack (st : Vector Word 48) (n : Fin 49) : (s.setStack st n).stack = st := rfl
@[simp] theorem State.setStack_stackSize (st : Vector Word 48) (n : Fin 49) : (s.setStack st n).stackSize = n := rfl
@[simp] theorem State.setStack_mem (st : Vector Word 48) (n : Fin 49) : (s.setStack st n).mem = s.mem := rfl
@[simp] theorem State.setStack_font (st : Vector Word 48) (n : Fin 49) : (s.setStack st n).font = s.font := rfl
@[simp] theorem State.setStack_display (st : Vector Word 48) (n : Fin 49) : (s.setStack st n).display = s.display := rfl
@[simp] theorem State.setStack_keys (st : Vector Word 48) (n : Fin 49) : (s.setStack st n).keys = s.keys := rfl
@[simp] theorem State.setStack_lastEvent (st : Vector Word 48) (n : Fin 49) : (s.setStack st n).lastEvent = s.lastEvent := rfl
@[simp] theorem State.setStack_keyWake (st : Vector Word 48) (n : Fin 49) : (s.setStack st n).keyWake = s.keyWake := rfl
@[simp] theorem State.setStack_delayTimer (st : Vector Word 48) (n : Fin 49) : (s.setStack st n).delayTimer = s.delayTimer := rfl
@[simp] theorem State.setStack_soundTimer (st : Vector Word 48) (n : Fin 49) : (s.setStack st n).soundTimer = s.soundTimer := rfl
@[simp] theorem State.setStack_running (st : Vector Word 48) (n : Fin 49) : (s.setStack st n).running = s.running := rfl
@[simp] theorem State.setStack_execHalted (st : Vector Word 48) (n : Fin 49) : (s.setStack st n).execHalted = s.execHalted := rfl
@[simp] theorem State.setStack_wait (st : Vector Word 48) (n : Fin 49) : (s.setStack st n).wait = s.wait := rfl
@[simp] theorem State.setStack_reports (st : Vector Word 48) (n : Fin 49) : (s.setStack st n).reports = s.reports := rfl
@[simp] theorem State.setStack_fbUpdates (st : Vector Word 48) (n : Fin 49) : (s.setStack st n).fbUpdates = s.fbUpdates := rfl
@[simp] theorem State.setStack_loadResult (st : Vector Word 48) (n : Fin 49) : (s.setStack st n).loadResult = s.loadResult := rfl
@[simp] theorem State.setStack_faultMark (st : Vector Word 48) (n : Fin 49) : (s.setStack st n).faultMark = s.faultMark := rfl
@[simp] theorem State.setStack_executorActive (st : Vector Word 48) (n : Fin 49) : (s.setStack st n).executorActive = s.executorActive := rfl
@[simp] theorem State.setStack_tickActive (st : Vector Word 48) (n : Fin 49) : (s.setStack st n).tickActive = s.tickActive := rfl
@[simp] theorem State.setStack_draws (st : Vector Word 48) (n : Fin 49) : (s.setStack st n).draws = s.draws := rfl
@[simp] theorem State.setStack_agenda (st : Vector Word 48) (n : Fin 49) : (s.setStack st n).agenda = s.agenda := rfl
@[simp] theorem State.setStack_readByte (st : Vector Word 48) (n : Fin 49) (k : Nat) : (s.setStack st n).readByte k = s.readByte k := rfl
@[simp] theorem State.setStack_reg (st : Vector Word 48) (n : Fin 49) (y : Nibble) : (s.setStack st n).reg y = s.reg y := rfl

/-! ## setKeys -/

@[simp] theorem State.setKeys_v (ks : Vector Bool 16) : (s.setKeys ks).v = s.v := rfl
@[simp] theorem State.setKeys_index (ks : Vector Bool 16) : (s.setKeys ks).index = s.index := rfl
@[simp] theorem State.setKeys_pc (ks : Vector Bool 16) : (s.setKeys ks).pc = s.pc := rfl
@[simp] theorem State.setKeys_stack (ks : Vector Bool 16) : (s.setKeys ks).stack = s.stack := rfl
@[simp] theorem State.setKeys_stackSize (ks : Vector Bool 16) : (s.setKeys ks).stackSize = s.stackSize := rfl
@[simp] theorem State.setKeys_mem (ks : Vector Bool 16) : (s.setKeys ks).mem = s.mem := rfl
@[simp] theorem State.setKeys_font (ks : Vector Bool 16) : (s.setKeys ks).font = s.font := rfl
@[simp] theorem State.setKeys_display (ks : Vector Bool 16) : (s.setKeys ks).display = s.display := rfl
@[simp] theorem State.setKeys_keys (ks : Vector Bool 16) : (s.setKeys ks).keys = ks := rfl
@[simp] theorem State.setKeys_lastEvent (ks : Vector Bool 16) : (s.setKeys ks).lastEvent = s.lastEvent := rfl
@[simp] theorem State.setKeys_keyWake (ks : Vector Bool 16) : (s.setKeys ks).keyWake = s.keyWake := rfl
@[simp] theorem State.setKeys_delayTimer (ks : Vector Bool 16) : (s.setKeys ks).delayTimer = s.delayTimer := rfl
@[simp] theorem State.setKeys_soundTimer (ks : Vector Bool 16) : (s.setKeys ks).soundTimer = s.soundTimer := rfl
@[simp] theorem State.setKeys_running (ks : Vector Bool 16) : (s.setKeys ks).running = s.running := rfl
@[simp] theorem State.setKeys_execHalted (ks : Vector Bool 16) : (s.setKeys ks).execHalted = s.execHalted := rfl
@[simp] theorem State.setKeys_wait (ks : Vector Bool 16) : (s.setKeys ks).wait = s.wait := rfl
@[simp] theorem State.setKeys_reports (ks : Vector Bool 16) : (s.setKeys ks).reports = s.reports := rfl
@[simp] theorem State.setKeys_fbUpdates (ks : Vector Bool 16) : (s.setKeys ks).fbUpdates = s.fbUpdates := rfl
@[simp] theorem State.setKeys_loadResult (ks : Vector Bool 16) : (s.setKeys ks).loadResult = s.loadResult := rfl
@[simp] theorem State.setKeys_faultMark (ks : Vector Bool 16) : (s.setKeys ks).faultMark = s.faultMark := rfl
@[simp] theorem State.setKeys_executorActive (ks : Vector Bool 16) : (s.setKeys ks).executorActive = s.executorActive := rfl
@[simp] theorem State.setKeys_tickActive (ks : Vector Bool 16) : (s.setKeys ks).tickActive = s.tickActive := rfl
@[simp] theorem State.setKeys_draws (ks : Vector Bool 16) : (s.setKeys ks).draws = s.draws := rfl
@[simp] theorem State.setKeys_agenda (ks : Vector Bool 16) : (s.setKeys ks).agenda = s.agenda := rfl
@[simp] theorem State.setKeys_readByte (ks : Vector Bool 16) (k : Nat) : (s.setKeys ks).readByte k = s.readByte k := rfl
@[simp] theorem State.setKeys_reg (ks : Vector Bool 16) (y : Nibble) : (s.setKeys ks).reg y = s.reg y := rfl

/-! ## setLastEvent -/

@[simp] theorem State.setLastEvent_v (e : LastEvent) : (s.setLastEvent e).v = s.v := rfl
@[simp] theorem State.setLastEvent_index (e : LastEvent) : (s.setLastEvent e).index = s.index := rfl
@[simp] theorem State.setLastEvent_pc (e : LastEvent) : (s.setLastEvent e).pc = s.pc := rfl
@[simp] theorem State.setLastEvent_stack (e : LastEvent) : (s.setLastEvent e).stack = s.stack := rfl
@[simp] theorem State.setLastEvent_stackSize (e : LastEvent) : (s.setLastEvent e).stackSize = s.stackSize := rfl
@[simp] theorem State.setLastEvent_mem (e : LastEvent) : (s.setLastEvent e).mem = s.mem := rfl
@[simp] theorem State.setLastEvent_font (e : LastEvent) : (s.setLastEvent e).font = s.font := rfl
@[simp] theorem State.setLastEvent_display (e : LastEvent) : (s.setLastEvent e).display = s.display := rfl
@[simp] theorem State.setLastEvent_keys (e : LastEvent) : (s.setLastEvent e).keys = s.keys := rfl
@[simp] theorem State.setLastEvent_lastEvent (e : LastEvent) : (s.setLastEvent e).lastEvent = e := rfl
@[simp] theorem State.setLastEvent_keyWake (e : LastEvent) : (s.setLastEvent e).keyWake = s.keyWake := rfl
@[simp] theorem State.setLastEvent_delayTimer (e : LastEvent) : (s.setLastEvent e).delayTimer = s.delayTimer := rfl
@[simp] theorem State.setLastEvent_soundTimer (e : LastEvent) : (s.setLastEvent e).soundTimer = s.soundTimer := rfl
@[simp] theorem State.setLastEvent_running (e : LastEvent) : (s.setLastEvent e).running = s.running := rfl
@[simp] theorem State.setLastEvent_execHalted (e : LastEvent) : (s.setLastEvent e).execHalted = s.execHalted := rfl
@[simp] theorem State.setLastEvent_wait (e : LastEvent) : (s.setLastEvent e).wait = s.wait := rfl
@[simp] theorem State.setLastEvent_reports (e : LastEvent) : (s.setLastEvent e).reports = s.reports := rfl
@[simp] theorem State.setLastEvent_fbUpdates (e : LastEvent) : (s.setLastEvent e).fbUpdates = s.fbUpdates := rfl
@[simp] theorem State.setLastEvent_loadResult (e : LastEvent) : (s.setLastEvent e).loadResult = s.loadResult := rfl
@[simp] theorem State.setLastEvent_faultMark (e : LastEvent) : (s.setLastEvent e).faultMark = s.faultMark := rfl
@[simp] theorem State.setLastEvent_executorActive (e : LastEvent) : (s.setLastEvent e).executorActive = s.executorActive := rfl
@[simp] theorem State.setLastEvent_tickActive (e : LastEvent) : (s.setLastEvent e).tickActive = s.tickActive := rfl
@[simp] theorem State.setLastEvent_draws (e : LastEvent) : (s.setLastEvent e).draws = s.draws := rfl
@[simp] theorem State.setLastEvent_agenda (e : LastEvent) : (s.setLastEvent e).agenda = s.agenda := rfl
@[simp] theorem State.setLastEvent_readByte (e : LastEvent) (k : Nat) : (s.setLastEvent e).readByte k = s.readByte k := rfl
@[simp] theorem State.setLastEvent_reg (e : LastEvent) (y : Nibble) : (s.setLastEvent e).reg y = s.reg y := rfl

/-! ## setRunning -/

@[simp] theorem State.setRunning_v (c : Bool) : (s.setRunning c).v = s.v := rfl
@[simp] theorem State.setRunning_index (c : Bool) : (s.setRunning c).index = s.index := rfl
@[simp] theorem State.setRunning_pc (c : Bool) : (s.setRunning c).pc = s.pc := rfl
@[simp] theorem State.setRunning_stack (c : Bool) : (s.setRunning c).stack = s.stack := rfl
@[simp] theorem State.setRunning_stackSize (c : Bool) : (s.setRunning c).stackSize = s.stackSize := rfl
@[simp] theorem State.setRunning_mem (c : Bool) : (s.setRunning c).mem = s.mem := rfl
@[simp] theorem State.setRunning_font (c : Bool) : (s.setRunning c).font = s.font := rfl
@[simp] theorem State.setRunning_display (c : Bool) : (s.setRunning c).display = s.display := rfl
@[simp] theorem State.setRunning_keys (c : Bool) : (s.setRunning c).keys = s.keys := rfl
@[simp] theorem State.setRunning_lastEvent (c : Bool) : (s.setRunning c).lastEvent = s.lastEvent := rfl
@[simp] theorem State.setRunning_keyWake (c : Bool) : (s.setRunning c).keyWake = s.keyWake := rfl
@[simp] theorem State.setRunning_delayTimer (c : Bool) : (s.setRunning c).delayTimer = s.delayTimer := rfl
@[simp] theorem State.setRunning_soundTimer (c : Bool) : (s.setRunning c).soundTimer = s.soundTimer := rfl
@[simp] theorem State.setRunning_running (c : Bool) : (s.setRunning c).running = c := rfl
@[simp] theorem State.setRunning_execHalted (c : Bool) : (s.setRunning c).execHalted = s.execHalted := rfl
@[simp] theorem State.setRunning_wait (c : Bool) : (s.setRunning c).wait = s.wait := rfl
@[simp] theorem State.setRunning_reports (c : Bool) : (s.setRunning c).reports = s.reports := rfl
@[simp] theorem State.setRunning_fbUpdates (c : Bool) : (s.setRunning c).fbUpdates = s.fbUpdates := rfl
@[simp] theorem State.setRunning_loadResult (c : Bool) : (s.setRunning c).loadResult = s.loadResult := rfl
@[simp] theorem State.setRunning_faultMark (c : Bool) : (s.setRunning c).faultMark = s.faultMark := rfl
@[simp] theorem State.setRunning_executorActive (c : Bool) : (s.setRunning c).executorActive = s.executorActive := rfl
@[simp] theorem State.setRunning_tickActive (c : Bool) : (s.setRunning c).tickActive = s.tickActive := rfl
@[simp] theorem State.setRunning_draws (c : Bool) : (s.setRunning c).draws = s.draws := rfl
@[simp] theorem State.setRunning_agenda (c : Bool) : (s.setRunning c).agenda = s.agenda := rfl
@[simp] theorem State.setRunning_readByte (c : Bool) (k : Nat) : (s.setRunning c).readByte k = s.readByte k := rfl
@[simp] theorem State.setRunning_reg (c : Bool) (y : Nibble) : (s.setRunning c).reg y = s.reg y := rfl

/-! ## setExecutorActive -/

@[simp] theorem State.setExecutorActive_v (c : Bool) : (s.setExecutorActive c).v = s.v := rfl
@[simp] theorem State.setExecutorActive_index (c : Bool) : (s.setExecutorActive c).index = s.index := rfl
@[simp] theorem State.setExecutorActive_pc (c : Bool) : (s.setExecutorActive c).pc = s.pc := rfl
@[simp] theorem State.setExecutorActive_stack (c : Bool) : (s.setExecutorActive c).stack = s.stack := rfl
@[simp] theorem State.setExecutorActive_stackSize (c : Bool) : (s.setExecutorActive c).stackSize = s.stackSize := rfl
@[simp] theorem State.setExecutorActive_mem (c : Bool) : (s.setExecutorActive c).mem = s.mem := rfl
@[simp] theorem State.setExecutorActive_font (c : Bool) : (s.setExecutorActive c).font = s.font := rfl
@[simp] theorem State.setExecutorActive_display (c : Bool) : (s.setExecutorActive c).display = s.display := rfl
@[simp] theorem State.setExecutorActive_keys (c : Bool) : (s.setExecutorActive c).keys = s.keys := rfl
@[simp] theorem State.setExecutorActive_lastEvent (c : Bool) : (s.setExecutorActive c).lastEvent = s.lastEvent := rfl
@[simp] theorem State.setExecutorActive_keyWake (c : Bool) : (s.setExecutorActive c).keyWake = s.keyWake := rfl
@[simp] theorem State.setExecutorActive_delayTimer (c : Bool) : (s.setExecutorActive c).delayTimer = s.delayTimer := rfl
@[simp] theorem State.setExecutorActive_soundTimer (c : Bool) : (s.setExecutorActive c).soundTimer = s.soundTimer := rfl
@[simp] theorem State.setExecutorActive_running (c : Bool) : (s.setExecutorActive c).running = s.running := rfl
@[simp] theorem State.setExecutorActive_execHalted (c : Bool) : (s.setExecutorActive c).execHalted = s.execHalted := rfl
@[simp] theorem State.setExecutorActive_wait (c : Bool) : (s.setExecutorActive c).wait = s.wait := rfl
@[simp] theorem State.setExecutorActive_reports (c : Bool) : (s.setExecutorActive c).reports = s.reports := rfl
@[simp] theorem State.setExecutorActive_fbUpdates (c : Bool) : (s.setExecutorActive c).fbUpdates = s.fbUpdates := rfl
@[simp] theorem State.setExecutorActive_loadResult (c : Bool) : (s.setExecutorActive c).loadResult = s.loadResult := rfl
@[simp] theorem State.setExecutorActive_faultMark (c : Bool) : (s.setExecutorActive c).faultMark = s.faultMark := rfl
@[simp] theorem State.setExecutorActive_executorActive (c : Bool) : (s.setExecutorActive c).executorActive = c := rfl
@[simp] theorem State.setExecutorActive_tickActive (c : Bool) : (s.setExecutorActive c).tickActive = s.tickActive := rfl
@[simp] theorem State.setExecutorActive_draws (c : Bool) : (s.setExecutorActive c).draws = s.draws := rfl
@[simp] theorem State.setExecutorActive_agenda (c : Bool) : (s.setExecutorActive c).agenda = s.agenda := rfl
@[simp] theorem State.setExecutorActive_readByte (c : Bool) (k : Nat) : (s.setExecutorActive c).readByte k = s.readByte k := rfl
@[simp] theorem State.setExecutorActive_reg (c : Bool) (y : Nibble) : (s.setExecutorActive c).reg y = s.reg y := rfl

/-! ## setTickActive -/

@[simp] theorem State.setTickActive_v (c : Bool) : (s.setTickActive c).v = s.v := rfl
@[simp] theorem State.setTickActive_index (c : Bool) : (s.setTickActive c).index = s.index := rfl
@[simp] theorem State.setTickActive_pc (c : Bool) : (s.setTickActive c).pc = s.pc := rfl
@[simp] theorem State.setTickActive_stack (c : Bool) : (s.setTickActive c).stack = s.stack := rfl
@[simp] theorem State.setTickActive_stackSize (c : Bool) : (s.setTickActive c).stackSize = s.stackSize := rfl
@[simp] theorem State.setTickActive_mem (c : Bool) : (s.setTickActive c).mem = s.mem := rfl
@[simp] theorem State.setTickActive_font (c : Bool) : (s.setTickActive c).font = s.font := rfl
@[simp] theorem State.setTickActive_display (c : Bool) : (s.setTickActive c).display = s.display := rfl
@[simp] theorem State.setTickActive_keys (c : Bool) : (s.setTickActive c).keys = s.keys := rfl
@[simp] theorem State.setTickActive_lastEvent (c : Bool) : (s.setTickActive c).lastEvent = s.lastEvent := rfl
@[simp] theorem State.setTickActive_keyWake (c : Bool) : (s.setTickActive c).keyWake = s.keyWake := rfl
@[simp] theorem State.setTickActive_delayTimer (c : Bool) : (s.setTickActive c).delayTimer = s.delayTimer := rfl
@[simp] theorem State.setTickActive_soundTimer (c : Bool) : (s.setTickActive c).soundTimer = s.soundTimer := rfl
@[simp] theorem State.setTickActive_running (c : Bool) : (s.setTickActive c).running = s.running := rfl
@[simp] theorem State.setTickActive_execHalted (c : Bool) : (s.setTickActive c).execHalted = s.execHalted := rfl
@[simp] theorem State.setTickActive_wait (c : Bool) : (s.setTickActive c).wait = s.wait := rfl
@[simp] theorem State.setTickActive_reports (c : Bool) : (s.setTickActive c).reports = s.reports := rfl
@[simp] theorem State.setTickActive_fbUpdates (c : Bool) : (s.setTickActive c).fbUpdates = s.fbUpdates := rfl
@[simp] theorem State.setTickActive_loadResult (c : Bool) : (s.setTickActive c).loadResult = s.loadResult := rfl
@[simp] theorem State.setTickActive_faultMark (c : Bool) : (s.setTickActive c).faultMark = s.faultMark := rfl
@[simp] theorem State.setTickActive_executorActive (c : Bool) : (s.setTickActive c).executorActive = s.executorActive := rfl
@[simp] theorem State.setTickActive_tickActive (c : Bool) : (s.setTickActive c).tickActive = c := rfl
@[simp] theorem State.setTickActive_draws (c : Bool) : (s.setTickActive c).draws = s.draws := rfl
@[simp] theorem State.setTickActive_agenda (c : Bool) : (s.setTickActive c).agenda = s.agenda := rfl
@[simp] theorem State.setTickActive_readByte (c : Bool) (k : Nat) : (s.setTickActive c).readByte k = s.readByte k := rfl
@[simp] theorem State.setTickActive_reg (c : Bool) (y : Nibble) : (s.setTickActive c).reg y = s.reg y := rfl

/-! ## setLoadResult -/

@[simp] theorem State.setLoadResult_v (r : LoadResult) : (s.setLoadResult r).v = s.v := rfl
@[simp] theorem State.setLoadResult_index (r : LoadResult) : (s.setLoadResult r).index = s.index := rfl
@[simp] theorem State.setLoadResult_pc (r : LoadResult) : (s.setLoadResult r).pc = s.pc := rfl
@[simp] theorem State.setLoadResult_stack (r : LoadResult) : (s.setLoadResult r).stack = s.stack := rfl
@[simp] theorem State.setLoadResult_stackSize (r : LoadResult) : (s.setLoadResult r).stackSize = s.stackSize := rfl
@[simp] theorem State.setLoadResult_mem (r : LoadResult) : (s.setLoadResult r).mem = s.mem := rfl
@[simp] theorem State.setLoadResult_font (r : LoadResult) : (s.setLoadResult r).font = s.font := rfl
@[simp] theorem State.setLoadResult_display (r : LoadResult) : (s.setLoadResult r).display = s.display := rfl
@[simp] theorem State.setLoadResult_keys (r : LoadResult) : (s.setLoadResult r).keys = s.keys := rfl
@[simp] theorem State.setLoadResult_lastEvent (r : LoadResult) : (s.setLoadResult r).lastEvent = s.lastEvent := rfl
@[simp] theorem State.setLoadResult_keyWake (r : LoadResult) : (s.setLoadResult r).keyWake = s.keyWake := rfl
@[simp] theorem State.setLoadResult_delayTimer (r : LoadResult) : (s.setLoadResult r).delayTimer = s.delayTimer := rfl
@[simp] theorem State.setLoadResult_soundTimer (r : LoadResult) : (s.setLoadResult r).soundTimer = s.soundTimer := rfl
@[simp] theorem State.setLoadResult_running (r : LoadResult) : (s.setLoadResult r).running = s.running := rfl
@[simp] theorem State.setLoadResult_execHalted (r : LoadResult) : (s.setLoadResult r).execHalted = s.execHalted := rfl
@[simp] theorem State.setLoadResult_wait (r : LoadResult) : (s.setLoadResult r).wait = s.wait := rfl
@[simp] theorem State.setLoadResult_reports (r : LoadResult) : (s.setLoadResult r).reports = s.reports := rfl
@[simp] theorem State.setLoadResult_fbUpdates (r : LoadResult) : (s.setLoadResult r).fbUpdates = s.fbUpdates := rfl
@[simp] theorem State.setLoadResult_loadResult (r : LoadResult) : (s.setLoadResult r).loadResult = some r := rfl
@[simp] theorem State.setLoadResult_faultMark (r : LoadResult) : (s.setLoadResult r).faultMark = s.faultMark := rfl
@[simp] theorem State.setLoadResult_executorActive (r : LoadResult) : (s.setLoadResult r).executorActive = s.executorActive := rfl
@[simp] theorem State.setLoadResult_tickActive (r : LoadResult) : (s.setLoadResult r).tickActive = s.tickActive := rfl
@[simp] theorem State.setLoadResult_draws (r : LoadResult) : (s.setLoadResult r).draws = s.draws := rfl
@[simp] theorem State.setLoadResult_agenda (r : LoadResult) : (s.setLoadResult r).agenda = s.agenda := rfl
@[simp] theorem State.setLoadResult_readByte (r : LoadResult) (k : Nat) : (s.setLoadResult r).readByte k = s.readByte k := rfl
@[simp] theorem State.setLoadResult_reg (r : LoadResult) (y : Nibble) : (s.setLoadResult r).reg y = s.reg y := rfl

/-! ## setAgenda -/

@[simp] theorem State.setAgenda_v (l : List Turn) : (s.setAgenda l).v = s.v := rfl
@[simp] theorem State.setAgenda_index (l : List Turn) : (s.setAgenda l).index = s.index := rfl
@[simp] theorem State.setAgenda_pc (l : List Turn) : (s.setAgenda l).pc = s.pc := rfl
@[simp] theorem State.setAgenda_stack (l : List Turn) : (s.setAgenda l).stack = s.stack := rfl
@[simp] theorem State.setAgenda_stackSize (l : List Turn) : (s.setAgenda l).stackSize = s.stackSize := rfl
@[simp] theorem State.setAgenda_mem (l : List Turn) : (s.setAgenda l).mem = s.mem := rfl
@[simp] theorem State.setAgenda_font (l : List Turn) : (s.setAgenda l).font = s.font := rfl
@[simp] theorem State.setAgenda_display (l : List Turn) : (s.setAgenda l).display = s.display := rfl
@[simp] theorem State.setAgenda_keys (l : List Turn) : (s.setAgenda l).keys = s.keys := rfl
@[simp] theorem State.setAgenda_lastEvent (l : List Turn) : (s.setAgenda l).lastEvent = s.lastEvent := rfl
@[simp] theorem State.setAgenda_keyWake (l : List Turn) : (s.setAgenda l).keyWake = s.keyWake := rfl
@[simp] theorem State.setAgenda_delayTimer (l : List Turn) : (s.setAgenda l).delayTimer = s.delayTimer := rfl
@[simp] theorem State.setAgenda_soundTimer (l : List Turn) : (s.setAgenda l).soundTimer = s.soundTimer := rfl
@[simp] theorem State.setAgenda_running (l : List Turn) : (s.setAgenda l).running = s.running := rfl
@[simp] theorem State.setAgenda_execHalted (l : List Turn) : (s.setAgenda l).execHalted = s.execHalted := rfl
@[simp] theorem State.setAgenda_wait (l : List Turn) : (s.setAgenda l).wait = s.wait := rfl
@[simp] theorem State.setAgenda_reports (l : List Turn) : (s.setAgenda l).reports = s.reports := rfl
@[simp] theorem State.setAgenda_fbUpdates (l : List Turn) : (s.setAgenda l).fbUpdates = s.fbUpdates := rfl
@[simp] theorem State.setAgenda_loadResult (l : List Turn) : (s.setAgenda l).loadResult = s.loadResult := rfl
@[simp] theorem State.setAgenda_faultMark (l : List Turn) : (s.setAgenda l).faultMark = s.faultMark := rfl
@[simp] theorem State.setAgenda_executorActive (l : List Turn) : (s.setAgenda l).executorActive = s.executorActive := rfl
@[simp] theorem State.setAgenda_tickActive (l : List Turn) : (s.setAgenda l).tickActive = s.tickActive := rfl
@[simp] theorem State.setAgenda_draws (l : List Turn) : (s.setAgenda l).draws = s.draws := rfl
@[simp] theorem State.setAgenda_agenda (l : List Turn) : (s.setAgenda l).agenda = l := rfl
@[simp] theorem State.setAgenda_readByte (l : List Turn) (k : Nat) : (s.setAgenda l).readByte k = s.readByte k := rfl
@[simp] theorem State.setAgenda_reg (l : List Turn) (y : Nibble) : (s.setAgenda l).reg y = s.reg y := rfl

end Sys2Proof.Machine
end

