-- ==== Sys2Proof/Laws/Memory.lean ====
section
/-! SUPPORT. What each memory operation can do: read after write, the bytes of a block, and that every operation
keeps the canonical form. -/

namespace Sys2Proof.Machine

/-! ## The list -/

theorem Memory.lookup_erase_same (m : Memory) (a : Nat) : Memory.lookup (Memory.erase m a) a = none := by
  induction m with
  | nil => rfl
  | cons c rest ih =>
    by_cases h : c.1 = a
    · simpa [Memory.erase, h] using ih
    · simpa [Memory.erase, h, Memory.lookup] using ih

theorem Memory.lookup_erase_other (m : Memory) (a k : Nat) (hk : k ≠ a) :
    Memory.lookup (Memory.erase m a) k = Memory.lookup m k := by
  induction m with
  | nil => rfl
  | cons c rest ih =>
    by_cases h : c.1 = a
    · have : c.1 ≠ k := by omega
      simpa [Memory.erase, h, Memory.lookup, hk.symm] using ih
    · simp only [Memory.erase, List.filter_cons, bne_iff_ne, ne_eq, h, not_false_iff, if_true,
        Memory.lookup]
      split
      · rfl
      · exact ih

theorem Memory.lookup_insert_same (m : Memory) (a : Nat) (b : Byte) (h : Memory.lookup m a = none) :
    Memory.lookup (Memory.insert m a b) a = some b := by
  induction m with
  | nil => simp [Memory.insert, Memory.lookup]
  | cons c rest ih =>
    obtain ⟨k, v⟩ := c
    by_cases hk : k = a
    · simp [Memory.lookup, hk] at h
    · simp only [Memory.insert]
      split
      · simp [Memory.lookup]
      · simp only [Memory.lookup, hk, if_false] at h ⊢
        exact ih h

theorem Memory.lookup_insert_other (m : Memory) (a : Nat) (b : Byte) (k : Nat) (hk : k ≠ a) :
    Memory.lookup (Memory.insert m a b) k = Memory.lookup m k := by
  induction m with
  | nil => simp [Memory.insert, Memory.lookup, hk.symm]
  | cons c rest ih =>
    obtain ⟨q, v⟩ := c
    simp only [Memory.insert]
    split
    · simp [Memory.lookup, hk.symm]
    · simp only [Memory.lookup, ih]

/-! ## One byte -/

/-- A write inside memory answers. -/
theorem Memory.write_isSome (font : Font) (m : Memory) (a : Nat) (b : Byte) (h : a < 4096) :
    ∃ m', Memory.write font m a b = some m' := by
  simp [Memory.write, memSize, h]

/-- Everything a write that answers does. -/
theorem Memory.write_spec {font : Font} {m m' : Memory} {a : Nat} {b : Byte}
    (h : Memory.write font m a b = some m') :
    a < 4096 ∧ Memory.read font m' a = some b ∧ ∀ k, k ≠ a → Memory.read font m' k = Memory.read font m k := by
  unfold Memory.write at h
  split at h
  · next ha =>
    refine ⟨ha, ?_, fun k hk => ?_⟩ <;> injection h with h <;> subst h
    · split
      · next hb => simp [Memory.read, ha, Memory.lookup_erase_same, hb]
      · simp [Memory.read, ha, Memory.lookup_insert_same _ _ _ (Memory.lookup_erase_same m a)]
    · split
      · simp [Memory.read, Memory.lookup_erase_other _ _ _ hk]
      · simp [Memory.read, Memory.lookup_insert_other _ _ _ _ hk, Memory.lookup_erase_other _ _ _ hk]
  · cases h

/-- A read answers exactly inside memory. -/
theorem Memory.read_isSome (font : Font) (m : Memory) (a : Nat) (h : a < 4096) :
    ∃ b, Memory.read font m a = some b := by
  simp [Memory.read, memSize, h]

theorem Memory.read_none (font : Font) (m : Memory) (a : Nat) (h : 4096 ≤ a) : Memory.read font m a = none := by
  simp [Memory.read, memSize, Nat.not_lt.mpr h]

/-! ## The canonical form -/

theorem Memory.wfFrom_mono {font : Font} {m : Memory} {lo lo' : Nat} (hle : lo' ≤ lo)
    (h : Memory.wfFrom font lo m = true) : Memory.wfFrom font lo' m = true := by
  cases m with
  | nil => rfl
  | cons c rest =>
    obtain ⟨a, b⟩ := c
    simp only [Memory.wfFrom, Bool.and_eq_true, decide_eq_true_eq] at h ⊢
    exact ⟨⟨⟨by omega, h.1.1.2⟩, h.1.2⟩, h.2⟩

theorem Memory.wfFrom_erase {font : Font} {m : Memory} {lo : Nat} (a : Nat)
    (h : Memory.wfFrom font lo m = true) : Memory.wfFrom font lo (Memory.erase m a) = true := by
  induction m generalizing lo with
  | nil => rfl
  | cons c rest ih =>
    obtain ⟨k, v⟩ := c
    simp only [Memory.wfFrom, Bool.and_eq_true, decide_eq_true_eq] at h
    by_cases hk : k = a
    · have : Memory.erase ((k, v) :: rest) a = Memory.erase rest a := by simp [Memory.erase, hk]
      rw [this]
      exact ih (Memory.wfFrom_mono (by omega) h.2)
    · have : Memory.erase ((k, v) :: rest) a = (k, v) :: Memory.erase rest a := by simp [Memory.erase, hk]
      rw [this]
      simp only [Memory.wfFrom, Bool.and_eq_true, decide_eq_true_eq]
      exact ⟨h.1, ih h.2⟩

theorem Memory.wfFrom_insert {font : Font} {m : Memory} {lo : Nat} {a : Nat} {b : Byte}
    (hlo : lo ≤ a) (ha : a < 4096) (hb : b ≠ Memory.background font a) (hfree : Memory.lookup m a = none)
    (h : Memory.wfFrom font lo m = true) : Memory.wfFrom font lo (Memory.insert m a b) = true := by
  induction m generalizing lo with
  | nil => simp [Memory.insert, Memory.wfFrom, hlo, memSize, ha, hb]
  | cons c rest ih =>
    obtain ⟨k, v⟩ := c
    have hka : k ≠ a := by
      rintro rfl
      simp [Memory.lookup] at hfree
    simp only [Memory.wfFrom, Bool.and_eq_true, decide_eq_true_eq] at h
    simp only [Memory.insert]
    split
    · next hlt =>
      simp only [Memory.wfFrom, Bool.and_eq_true, decide_eq_true_eq]
      exact ⟨⟨⟨hlo, ha⟩, by simpa using hb⟩, ⟨⟨⟨by omega, h.1.1.2⟩, h.1.2⟩, h.2⟩⟩
    · simp only [Memory.wfFrom, Bool.and_eq_true, decide_eq_true_eq]
      refine ⟨h.1, ih (by omega) ?_ h.2⟩
      simpa [Memory.lookup, hka] using hfree

/-- A write keeps the canonical form. -/
theorem Memory.write_wf {font : Font} {m m' : Memory} {a : Nat} {b : Byte}
    (hw : Memory.wf font m = true) (h : Memory.write font m a b = some m') : Memory.wf font m' = true := by
  have ha := (Memory.write_spec h).1
  rw [Memory.write, if_pos ha] at h
  injection h with h
  subst h
  split
  · exact Memory.wfFrom_erase a hw
  · next hb =>
    exact Memory.wfFrom_insert (Nat.zero_le a) ha hb (Memory.lookup_erase_same m a)
      (Memory.wfFrom_erase a hw)

/-! ## Blocks of bytes -/

/-- A store inside memory answers. -/
theorem Memory.writeBytes_isSome (font : Font) (m : Memory) (a : Nat) (bs : List Byte)
    (h : a + bs.length ≤ 4096) : ∃ m', Memory.writeBytes font m a bs = some m' := by
  induction bs generalizing m a with
  | nil => exact ⟨m, rfl⟩
  | cons b bs ih =>
    simp only [List.length_cons] at h
    obtain ⟨m1, h1⟩ := Memory.write_isSome font m a b (by omega)
    obtain ⟨m2, h2⟩ := ih m1 (a + 1) (by omega)
    exact ⟨m2, by simp [Memory.writeBytes, h1, h2]⟩

/-- Everything a store that answers does: the bytes stored, and every other byte as before. -/
theorem Memory.writeBytes_spec {font : Font} {m m' : Memory} {a : Nat} {bs : List Byte}
    (h : Memory.writeBytes font m a bs = some m') :
    (∀ k, k < bs.length → Memory.read font m' (a + k) = bs[k]?) ∧
    (∀ k, k < a ∨ a + bs.length ≤ k → Memory.read font m' k = Memory.read font m k) := by
  induction bs generalizing m a with
  | nil =>
    simp only [Memory.writeBytes, Option.some.injEq] at h
    subst h
    exact ⟨fun k hk => absurd hk (Nat.not_lt_zero k), fun _ _ => rfl⟩
  | cons b bs ih =>
    simp only [Memory.writeBytes] at h
    split at h
    · next m1 h1 =>
      obtain ⟨-, hsame, hother⟩ := Memory.write_spec h1
      obtain ⟨hin, hout⟩ := ih h
      refine ⟨fun k hk => ?_, fun k hk => ?_⟩
      · cases k with
        | zero =>
          rw [Nat.add_zero, hout a (by omega), hsame]
          rfl
        | succ k =>
          have hk' : k < bs.length := by simpa using hk
          have := hin k hk'
          rw [show a + (k + 1) = a + 1 + k by omega, this]
          rfl
      · simp only [List.length_cons] at hk
        rw [hout k (by omega), hother k (by omega)]
    · cases h

/-- A store keeps the canonical form. -/
theorem Memory.writeBytes_wf {font : Font} {m m' : Memory} {a : Nat} {bs : List Byte}
    (hw : Memory.wf font m = true) (h : Memory.writeBytes font m a bs = some m') :
    Memory.wf font m' = true := by
  induction bs generalizing m a with
  | nil =>
    simp only [Memory.writeBytes, Option.some.injEq] at h
    exact h ▸ hw
  | cons b bs ih =>
    simp only [Memory.writeBytes] at h
    split at h
    · next m1 h1 => exact ih (Memory.write_wf hw h1) h
    · cases h

/-! ## The same, of the state -/

theorem State.readByte_isSome (s : State) (a : Nat) (h : a < 4096) : ∃ b, s.readByte a = some b :=
  Memory.read_isSome _ _ _ h

theorem State.readByte_none (s : State) (a : Nat) (h : 4096 ≤ a) : s.readByte a = none :=
  Memory.read_none _ _ _ h

theorem State.writeBytes_isSome (s : State) (a : Nat) (bs : List Byte) (h : a + bs.length ≤ 4096) :
    ∃ t, s.writeBytes a bs = some t := by
  obtain ⟨m, hm⟩ := Memory.writeBytes_isSome s.font s.mem a bs h
  exact ⟨s.setMem m, by simp [State.writeBytes, hm]⟩

/-- Everything a store that answers does to the state. -/
theorem State.writeBytes_spec {s t : State} {a : Nat} {bs : List Byte} (h : s.writeBytes a bs = some t) :
    ∃ m, t = s.setMem m ∧ (Memory.wf s.font s.mem = true → Memory.wf s.font m = true) ∧
      (∀ k, k < bs.length → t.readByte (a + k) = bs[k]?) ∧
      (∀ k, k < a ∨ a + bs.length ≤ k → t.readByte k = s.readByte k) := by
  unfold State.writeBytes at h
  split at h
  · next m hm =>
    injection h with h
    subst h
    obtain ⟨hin, hout⟩ := Memory.writeBytes_spec hm
    exact ⟨m, rfl, fun hw => Memory.writeBytes_wf hw hm, hin, hout⟩
  · cases h

/-- A block read inside memory answers. -/
theorem State.readBytes_isSome (s : State) (a n : Nat) (h : a + n ≤ 4096) :
    ∃ bs, s.readBytes a n = some bs := by
  induction n generalizing a with
  | zero => exact ⟨[], rfl⟩
  | succ n ih =>
    obtain ⟨b, hb⟩ := s.readByte_isSome a (by omega)
    obtain ⟨bs, hbs⟩ := ih (a + 1) (by omega)
    exact ⟨b :: bs, by simp [State.readBytes, hb, hbs]⟩

/-- Everything a block read that answers says. -/
theorem State.readBytes_spec {s : State} {a n : Nat} {bs : List Byte} (h : s.readBytes a n = some bs) :
    bs.length = n ∧ ∀ k, k < n → s.readByte (a + k) = bs[k]? := by
  induction n generalizing a bs with
  | zero =>
    simp only [State.readBytes, Option.some.injEq] at h
    subst h
    exact ⟨rfl, fun k hk => absurd hk (Nat.not_lt_zero k)⟩
  | succ n ih =>
    simp only [State.readBytes] at h
    split at h
    · next b bs' hb hbs =>
      injection h with h
      subst h
      obtain ⟨hlen, hget⟩ := ih hbs
      refine ⟨by simp [hlen], fun k hk => ?_⟩
      cases k with
      | zero => simpa using hb
      | succ k => simpa [show a + (k + 1) = a + 1 + k by omega] using hget k (by omega)
    · cases h

/-- A word read inside memory answers, big-endian. -/
theorem State.readWord_of_bytes {s : State} {a : Nat} {hi lo : Byte} (h1 : s.readByte a = some hi)
    (h2 : s.readByte (a + 1) = some lo) : s.readWord a = some (wordOfBytes hi lo) := by
  simp [State.readWord, h1, h2]

end Sys2Proof.Machine
end

