-- ==== Sys2Proof/Laws/Operands.lean ====
section
/-! SUPPORT. Reading a register after writing one, a block of registers, the data bounds and the key operand. -/

namespace Sys2Proof.Machine

/-! ## One register (R20) -/

theorem State.reg_setReg_same (s : State) (x : Nibble) (b : Byte) : (s.setReg x b).reg x = b := by
  simp [State.reg, State.setReg]

theorem State.reg_setReg_other (s : State) (x y : Nibble) (b : Byte) (h : y ≠ x) :
    (s.setReg x b).reg y = s.reg y := by
  have : x.toNat ≠ y.toNat := fun e => h (BitVec.eq_of_toNat_eq e.symm)
  simp [State.reg, State.setReg, this]

/-- A register after a write, in one equation. -/
@[simp] theorem State.reg_setReg (s : State) (x y : Nibble) (b : Byte) :
    (s.setReg x b).reg y = if y = x then b else s.reg y := by
  split
  · next h => rw [h, State.reg_setReg_same]
  · next h => exact State.reg_setReg_other s x y b h

/-- Two register files with the same registers are the same. -/
theorem State.v_ext {s t : State} (h : ∀ x, t.reg x = s.reg x) : t.v = s.v := by
  apply Vector.ext
  intro k hk
  have := h (BitVec.ofNat 4 k)
  simpa [State.reg, Nat.mod_eq_of_lt hk] using this

/-! ## Zero extension (R93) -/

@[simp] theorem toNat_zext16 (nnn : Addr) : (zext16 nnn).toNat = nnn.toNat := by
  have := nnn.isLt
  simp only [zext16, BitVec.toNat_setWidth]
  omega

/-! ## The register block (R184, R185) -/

@[simp] theorem State.regBlock_length (s : State) (x : Nibble) : (s.regBlock x).length = x.toNat + 1 := by
  simp [State.regBlock, blockLength]

theorem State.regBlock_get (s : State) (x k : Nibble) (h : k.toNat ≤ x.toNat) :
    (s.regBlock x)[k.toNat]? = some (s.reg k) := by
  have hk : k.toNat < blockLength x := Nat.lt_succ_of_le h
  simp [State.regBlock, hk]

/-- Everything loading a block of registers does: the registers of the block, and every other register and every
other field as before. -/
theorem State.setRegsFrom_spec (bs : List Byte) (s : State) (k : Nat) (h : k + bs.length ≤ 16) :
    (∀ j : Nat, j < bs.length → some ((s.setRegsFrom k bs).reg (BitVec.ofNat 4 (k + j))) = bs[j]?) ∧
    (∀ y : Nibble, y.toNat < k ∨ k + bs.length ≤ y.toNat → (s.setRegsFrom k bs).reg y = s.reg y) ∧
    ∃ v, s.setRegsFrom k bs = s.setRegs v := by
  induction bs generalizing s k with
  | nil => exact ⟨fun j hj => absurd hj (Nat.not_lt_zero j), fun _ _ => rfl, s.v, rfl⟩
  | cons b bs ih =>
    simp only [List.length_cons] at h
    obtain ⟨hin, hout, v, hv⟩ := ih (s.setReg (BitVec.ofNat 4 k) b) (k + 1) (by omega)
    have hk : (BitVec.ofNat 4 k).toNat = k := by simp; omega
    refine ⟨fun j hj => ?_, fun y hy => ?_, v, hv⟩
    · cases j with
      | zero =>
        simp only [State.setRegsFrom, Nat.add_zero]
        rw [hout _ (by omega), State.reg_setReg_same]
        rfl
      | succ j =>
        have := hin j (by simpa using hj)
        simpa [State.setRegsFrom, show k + (j + 1) = k + 1 + j by omega] using this
    · simp only [List.length_cons] at hy
      simp only [State.setRegsFrom]
      rw [hout y (by omega), State.reg_setReg_other]
      intro e
      rw [e, hk] at hy
      omega

/-! ## The data bounds (R66) -/

theorem State.dataInBounds_iff (s : State) (n : Nat) :
    s.dataInBounds n = true ↔ n = 0 ∨ s.index.toNat + n ≤ 4096 := by
  simp only [State.dataInBounds, Bool.or_eq_true, beq_iff_eq, decide_eq_true_eq]

/-! ## The key operand (R226) -/

theorem State.keyAt_of_lt (s : State) (k : Byte) (h : k.toNat < 16) : s.keyAt k = some s.keys[k.toNat] := by
  simp [State.keyAt, h]

theorem State.keyAt_none (s : State) (k : Byte) (h : 15 < k.toNat) : s.keyAt k = none := by
  simp [State.keyAt, show ¬k.toNat < 16 by omega]

/-! ## The digits (R183) -/

@[simp] theorem bcdDigits_length (b : Byte) : (bcdDigits b).length = 3 := rfl

end Sys2Proof.Machine
end

