-- ==== Sys2Proof/Laws/Ops.lean ====
section
/-! SUPPORT. What each shared operation can do, once: push and pop, taking a fault, storing and loading at `index`. -/

namespace Sys2Proof.Machine

/-! ## The stack (R24) -/

/-- A push where the stack is not full. -/
theorem State.push_of_lt (s : State) (x : Word) (h : s.stackSize.val < 48) :
    s.push x = some (s.setStack (s.stack.set s.stackSize.val x h) ⟨s.stackSize.val + 1, Nat.succ_lt_succ h⟩) := by
  simp [State.push, h]

/-- No push where the stack is full. -/
theorem State.push_full (s : State) (x : Word) (h : s.stackSize.val = 48) : s.push x = none := by
  simp [State.push, h]

/-- A pop where the stack is not empty. -/
theorem State.pop_of_pos (s : State) (h : s.stackSize.val ≠ 0) :
    s.pop = some (s.stack[s.stackSize.val - 1]'(by omega), s.setStack s.stack ⟨s.stackSize.val - 1, by omega⟩) := by
  simp [State.pop, h]

/-- No pop where the stack is empty. -/
theorem State.pop_empty (s : State) (h : s.stackSize.val = 0) : s.pop = none := by
  simp [State.pop, h]

/-! ## Taking a fault (R252, R253) -/

/-- The reports that leave `pc` where it is (R252, R253). -/
theorem Report.pcAfter_eq (r : Report) (pc : Word) :
    r.pcAfter pc = if r.code = 3 ∨ r.code = 4 ∨ r.code = 6 ∨ r.code = 7 then pc + 2 else pc := by
  cases r <;> rfl

/-! ## Memory at `index` (R66) -/

/-- Everything a store at `index` does: the check, then the bytes; never a model fault. -/
theorem State.storeAtIndex_cases (s : State) (w : Word) (bs : List Byte) (after : State → State) :
    (s.dataInBounds bs.length = false ∧
      s.storeAtIndex w bs after = .next (s.raise (.memBounds s.pc w s.index bs.length))) ∨
    (s.dataInBounds bs.length = true ∧ ∃ t, s.writeBytes s.index.toNat bs = some t ∧
      s.storeAtIndex w bs after = .next (after t)) := by
  unfold State.storeAtIndex
  cases hb : s.dataInBounds bs.length with
  | false => exact .inl ⟨rfl, rfl⟩
  | true =>
    refine .inr ⟨rfl, ?_⟩
    rcases (s.dataInBounds_iff _).1 hb with h | h
    · rw [List.length_eq_zero_iff] at h
      subst h
      exact ⟨s.setMem s.mem, rfl, rfl⟩
    · obtain ⟨t, ht⟩ := s.writeBytes_isSome _ _ h
      exact ⟨t, ht, by simp [ht]⟩

/-- Everything a load at `index` does: the check, then the bytes; never a model fault. -/
theorem State.loadAtIndex_cases (s : State) (w : Word) (n : Nat) (after : List Byte → State) :
    (s.dataInBounds n = false ∧
      s.loadAtIndex w n after = .next (s.raise (.memBounds s.pc w s.index n))) ∨
    (s.dataInBounds n = true ∧ ∃ bs, s.readBytes s.index.toNat n = some bs ∧
      s.loadAtIndex w n after = .next (after bs)) := by
  unfold State.loadAtIndex
  cases hb : s.dataInBounds n with
  | false => exact .inl ⟨rfl, rfl⟩
  | true =>
    refine .inr ⟨rfl, ?_⟩
    rcases (s.dataInBounds_iff _).1 hb with h | h
    · subst h
      exact ⟨[], rfl, rfl⟩
    · obtain ⟨bs, hbs⟩ := s.readBytes_isSome _ _ h
      exact ⟨bs, hbs, by simp [hbs]⟩

/-- Inside memory, or of no bytes. -/
theorem State.dataInBounds_of_le {s : State} {n : Nat} (h : s.index.toNat + n ≤ 4096) : s.dataInBounds n = true :=
  (s.dataInBounds_iff n).2 (.inr h)

/-- Beyond memory (R66). -/
theorem State.dataInBounds_of_gt {s : State} {n : Nat} (hn : n ≠ 0) (h : 4096 < s.index.toNat + n) :
    s.dataInBounds n = false := by
  have := (s.dataInBounds_iff n).not
  simp only [Bool.not_eq_true] at this
  exact this.2 (by omega)

/-- A store inside memory: the bytes stored, and every other byte as before. -/
theorem State.storeAtIndex_in {s : State} {bs : List Byte} (w : Word) (after : State → State)
    (h : s.dataInBounds bs.length = true) :
    ∃ m, s.storeAtIndex w bs after = .next (after (s.setMem m)) ∧
      (Memory.wf s.font s.mem = true → Memory.wf s.font m = true) ∧
      (∀ k, k < bs.length → (s.setMem m).readByte (s.index.toNat + k) = bs[k]?) ∧
      (∀ k, k < s.index.toNat ∨ s.index.toNat + bs.length ≤ k → (s.setMem m).readByte k = s.readByte k) := by
  rcases s.storeAtIndex_cases w bs after with ⟨h', -⟩ | ⟨-, t, ht, he⟩
  · rw [h] at h'; cases h'
  · obtain ⟨m, rfl, hw, h1, h2⟩ := State.writeBytes_spec ht
    exact ⟨m, he, hw, h1, h2⟩

/-- A store beyond memory: the report and nothing else. -/
theorem State.storeAtIndex_out {s : State} {bs : List Byte} (w : Word) (after : State → State)
    (h : s.dataInBounds bs.length = false) :
    s.storeAtIndex w bs after = .next (s.raise (.memBounds s.pc w s.index bs.length)) := by
  simp [State.storeAtIndex, h]

/-- A load inside memory: the bytes loaded. -/
theorem State.loadAtIndex_in {s : State} {n : Nat} (w : Word) (after : List Byte → State)
    (h : s.dataInBounds n = true) :
    ∃ bs, s.loadAtIndex w n after = .next (after bs) ∧ bs.length = n ∧
      ∀ k, k < n → s.readByte (s.index.toNat + k) = bs[k]? := by
  rcases s.loadAtIndex_cases w n after with ⟨h', -⟩ | ⟨-, bs, hb, he⟩
  · rw [h] at h'; cases h'
  · obtain ⟨h1, h2⟩ := State.readBytes_spec hb
    exact ⟨bs, he, h1, h2⟩

/-- A load beyond memory: the report and nothing else. -/
theorem State.loadAtIndex_out {s : State} {n : Nat} (w : Word) (after : List Byte → State)
    (h : s.dataInBounds n = false) :
    s.loadAtIndex w n after = .next (s.raise (.memBounds s.pc w s.index n)) := by
  simp [State.loadAtIndex, h]

/-- The register block of `FX65` loaded from V0 on. -/
theorem State.setRegsFrom_block (s : State) (x : Nibble) (bs : List Byte) (h : bs.length = blockLength x) :
    (∀ k : Nibble, k.toNat ≤ x.toNat → some ((s.setRegsFrom 0 bs).reg k) = bs[k.toNat]?) ∧
    (∀ k : Nibble, x.toNat < k.toNat → (s.setRegsFrom 0 bs).reg k = s.reg k) ∧
    ∃ v, s.setRegsFrom 0 bs = s.setRegs v := by
  have := x.isLt
  simp only [blockLength] at h
  obtain ⟨h1, h2, h3⟩ := State.setRegsFrom_spec bs s 0 (by omega)
  refine ⟨fun k hk => ?_, fun k hk => h2 k (by omega), h3⟩
  simpa using h1 k.toNat (by omega)

end Sys2Proof.Machine
end

