-- ==== Sys2Proof/Laws/Display.lean ====
section
/-! SUPPORT. The bytes of the display after each display operation. -/

namespace Sys2Proof.Machine

theorem Display.byte_setByte (d : Display) (r q : Fin 32) (c e : Fin 8) (b : Byte) :
    Display.byte (Display.setByte d r c b) q e = if q = r ∧ e = c then b else Display.byte d q e := by
  simp only [Display.byte, Display.setByte, Fin.getElem_fin, Vector.getElem_set, Fin.ext_iff]
  by_cases hq : r.val = q.val
  · by_cases he : c.val = e.val
    · simp [hq, he]
    · simp [hq, he, Ne.symm he]
  · simp [hq, Ne.symm hq]

/-- Two displays with the same bytes are the same. -/
theorem Display.ext_byte {d e : Display} (h : ∀ r c, Display.byte d r c = Display.byte e r c) : d = e := by
  apply Vector.ext
  intro r hr
  apply Vector.ext
  intro c hc
  exact h ⟨r, hr⟩ ⟨c, hc⟩

@[simp] theorem Display.byte_blank (r : Fin 32) (c : Fin 8) : Display.byte Display.blank r c = 0 := by
  simp [Display.byte, Display.blank]

/-- The bytes of the display after one sprite row (R203), in one equation for both cases of the offset. -/
theorem blitRow_byte (d : Display) (r q : Fin 32) (x : Nat) (b : Byte) (e : Fin 8) :
    Display.byte (blitRow d r x b).1 q e =
      if q = r ∧ e = byteColOf (x / 8) then Display.byte d q e ^^^ (b >>> (x % 8))
      else if q = r ∧ e = byteColOf (x / 8 + 1) ∧ x % 8 ≠ 0 then Display.byte d q e ^^^ (b <<< (8 - x % 8))
      else Display.byte d q e := by
  have hc1 : byteColOf ((byteColOf (x / 8)).val + 1) = byteColOf (x / 8 + 1) := by
    simp [byteColOf, Nat.mod_add_mod]
  have hne : byteColOf (x / 8) ≠ byteColOf (x / 8 + 1) := by
    simp only [byteColOf, ne_eq, Fin.mk.injEq]; omega
  unfold blitRow
  by_cases hs : x % 8 = 0
  · by_cases h1 : q = r ∧ e = byteColOf (x / 8)
    · obtain ⟨rfl, rfl⟩ := h1
      simp [hs, Display.byte_setByte]
    · simp [hs, Display.byte_setByte, h1]
  · simp only [hs, if_false, Display.byte_setByte, hc1, ne_eq, not_false_iff, and_true]
    by_cases h1 : q = r ∧ e = byteColOf (x / 8)
    · obtain ⟨rfl, rfl⟩ := h1
      simp [hne]
    · by_cases h2 : q = r ∧ e = byteColOf (x / 8 + 1)
      · obtain ⟨rfl, rfl⟩ := h2
        simp [hne.symm]
      · simp [h1, h2]

end Sys2Proof.Machine
end

