-- ==== Sys2Proof/Laws/Encoding.lean ====
section
/-! SUPPORT. The fields of a word and the assembled words as numbers, and from them: the fields of an assembled word,
the word of given fields, and the bytes of a word. -/

namespace Sys2Proof

/-! ## As numbers -/

theorem toNat_fieldOP (w : Word) : (fieldOP w).toNat = w.toNat / 4096 := by
  have := w.isLt
  simp only [fieldOP, BitVec.extractLsb'_toNat, Nat.shiftRight_eq_div_pow]
  omega
theorem toNat_fieldX (w : Word) : (fieldX w).toNat = w.toNat / 256 % 16 := by
  simp only [fieldX, BitVec.extractLsb'_toNat, Nat.shiftRight_eq_div_pow]
theorem toNat_fieldY (w : Word) : (fieldY w).toNat = w.toNat / 16 % 16 := by
  simp only [fieldY, BitVec.extractLsb'_toNat, Nat.shiftRight_eq_div_pow]
theorem toNat_fieldN4 (w : Word) : (fieldN4 w).toNat = w.toNat % 16 := by
  simp [fieldN4, BitVec.extractLsb'_toNat]
theorem toNat_fieldNN (w : Word) : (fieldNN w).toNat = w.toNat % 256 := by
  simp [fieldNN, BitVec.extractLsb'_toNat]
theorem toNat_fieldNNN (w : Word) : (fieldNNN w).toNat = w.toNat % 4096 := by
  simp [fieldNNN, BitVec.extractLsb'_toNat]
theorem toNat_highByte (w : Word) : (highByte w).toNat = w.toNat / 256 := by
  have := w.isLt
  simp only [highByte, BitVec.extractLsb'_toNat, Nat.shiftRight_eq_div_pow]
  omega
theorem toNat_lowByte (w : Word) : (lowByte w).toNat = w.toNat % 256 := by
  simp [lowByte, BitVec.extractLsb'_toNat]

theorem toNat_append_mul {k l : Nat} (a : BitVec k) (b : BitVec l) :
    (a ++ b).toNat = a.toNat * 2 ^ l + b.toNat := by
  rw [BitVec.toNat_append, ← Nat.shiftLeft_add_eq_or_of_lt b.isLt, Nat.shiftLeft_eq]

theorem toNat_wordOfBytes (hi lo : Byte) : (wordOfBytes hi lo).toNat = hi.toNat * 256 + lo.toNat :=
  toNat_append_mul hi lo
theorem toNat_formatA (op : Nibble) (nnn : Addr) : (formatA op nnn).toNat = op.toNat * 4096 + nnn.toNat :=
  toNat_append_mul op nnn
theorem toNat_formatI (op x : Nibble) (nn : Byte) :
    (formatI op x nn).toNat = op.toNat * 4096 + x.toNat * 256 + nn.toNat := by
  have : (formatI op x nn).toNat = (op ++ x).toNat * 256 + nn.toNat := toNat_append_mul (op ++ x) nn
  rw [this, toNat_append_mul]
  omega
theorem toNat_formatR (op x y n : Nibble) :
    (formatR op x y n).toNat = op.toNat * 4096 + x.toNat * 256 + y.toNat * 16 + n.toNat := by
  have : (formatR op x y n).toNat = (op ++ x ++ y).toNat * 16 + n.toNat := toNat_append_mul (op ++ x ++ y) n
  rw [this, toNat_append_mul, toNat_append_mul]
  omega

/-! ## The fields of an assembled word -/

@[simp] theorem fieldOP_formatA (op : Nibble) (nnn : Addr) : fieldOP (formatA op nnn) = op := by
  apply BitVec.eq_of_toNat_eq; rw [toNat_fieldOP, toNat_formatA]; omega
@[simp] theorem fieldNNN_formatA (op : Nibble) (nnn : Addr) : fieldNNN (formatA op nnn) = nnn := by
  apply BitVec.eq_of_toNat_eq; rw [toNat_fieldNNN, toNat_formatA]; omega
@[simp] theorem fieldOP_formatI (op x : Nibble) (nn : Byte) : fieldOP (formatI op x nn) = op := by
  apply BitVec.eq_of_toNat_eq; rw [toNat_fieldOP, toNat_formatI]; omega
@[simp] theorem fieldX_formatI (op x : Nibble) (nn : Byte) : fieldX (formatI op x nn) = x := by
  apply BitVec.eq_of_toNat_eq; rw [toNat_fieldX, toNat_formatI]; omega
@[simp] theorem fieldNN_formatI (op x : Nibble) (nn : Byte) : fieldNN (formatI op x nn) = nn := by
  apply BitVec.eq_of_toNat_eq; rw [toNat_fieldNN, toNat_formatI]; omega
@[simp] theorem fieldOP_formatR (op x y n : Nibble) : fieldOP (formatR op x y n) = op := by
  apply BitVec.eq_of_toNat_eq; rw [toNat_fieldOP, toNat_formatR]; omega
@[simp] theorem fieldX_formatR (op x y n : Nibble) : fieldX (formatR op x y n) = x := by
  apply BitVec.eq_of_toNat_eq; rw [toNat_fieldX, toNat_formatR]; omega
@[simp] theorem fieldY_formatR (op x y n : Nibble) : fieldY (formatR op x y n) = y := by
  apply BitVec.eq_of_toNat_eq; rw [toNat_fieldY, toNat_formatR]; omega
@[simp] theorem fieldN4_formatR (op x y n : Nibble) : fieldN4 (formatR op x y n) = n := by
  apply BitVec.eq_of_toNat_eq; rw [toNat_fieldN4, toNat_formatR]; omega

/-! ## The word of its fields -/

theorem formatA_fields {w : Word} {op : Nibble} (h : fieldOP w = op) : formatA op (fieldNNN w) = w := by
  subst h
  apply BitVec.eq_of_toNat_eq; rw [toNat_formatA, toNat_fieldOP, toNat_fieldNNN]; omega
theorem formatI_fields {w : Word} {op : Nibble} {nn : Byte} (h : fieldOP w = op) (hn : fieldNN w = nn) :
    formatI op (fieldX w) nn = w := by
  subst h hn
  apply BitVec.eq_of_toNat_eq; rw [toNat_formatI, toNat_fieldOP, toNat_fieldX, toNat_fieldNN]; omega
theorem formatR_fields {w : Word} {op n : Nibble} (h : fieldOP w = op) (hn : fieldN4 w = n) :
    formatR op (fieldX w) (fieldY w) n = w := by
  subst h hn
  apply BitVec.eq_of_toNat_eq
  rw [toNat_formatR, toNat_fieldOP, toNat_fieldX, toNat_fieldY, toNat_fieldN4]; omega

/-! ## The decoder, family by family (R95) -/

/-- The sixteen families. -/
theorem nibble_cases (o : Nibble) :
    o = 0x0#4 ∨ o = 0x1#4 ∨ o = 0x2#4 ∨ o = 0x3#4 ∨ o = 0x4#4 ∨ o = 0x5#4 ∨ o = 0x6#4 ∨ o = 0x7#4 ∨
      o = 0x8#4 ∨ o = 0x9#4 ∨ o = 0xA#4 ∨ o = 0xB#4 ∨ o = 0xC#4 ∨ o = 0xD#4 ∨ o = 0xE#4 ∨ o = 0xF#4 := by
  revert o; decide

theorem decodeWord_family0 {w : Word} (h : fieldOP w = 0x0#4) :
    decodeWord w = decodeFamily0 w := by
  unfold decodeWord; rw [h]; rfl
theorem decodeWord_family1 {w : Word} (h : fieldOP w = 0x1#4) :
    decodeWord w = .ok (.jp (fieldNNN w)) := by
  unfold decodeWord; rw [h]; rfl
theorem decodeWord_family2 {w : Word} (h : fieldOP w = 0x2#4) :
    decodeWord w = .ok (.call (fieldNNN w)) := by
  unfold decodeWord; rw [h]; rfl
theorem decodeWord_family3 {w : Word} (h : fieldOP w = 0x3#4) :
    decodeWord w = .ok (.seImm (fieldX w) (fieldNN w)) := by
  unfold decodeWord; rw [h]; rfl
theorem decodeWord_family4 {w : Word} (h : fieldOP w = 0x4#4) :
    decodeWord w = .ok (.sneImm (fieldX w) (fieldNN w)) := by
  unfold decodeWord; rw [h]; rfl
theorem decodeWord_family5 {w : Word} (h : fieldOP w = 0x5#4) :
    decodeWord w = if fieldN4 w = 0x0#4 then .ok (.seReg (fieldX w) (fieldY w)) else .error .malformedLowNibble := by
  unfold decodeWord; rw [h]; rfl
theorem decodeWord_family6 {w : Word} (h : fieldOP w = 0x6#4) :
    decodeWord w = .ok (.ldImm (fieldX w) (fieldNN w)) := by
  unfold decodeWord; rw [h]; rfl
theorem decodeWord_family7 {w : Word} (h : fieldOP w = 0x7#4) :
    decodeWord w = .ok (.addImm (fieldX w) (fieldNN w)) := by
  unfold decodeWord; rw [h]; rfl
theorem decodeWord_family8 {w : Word} (h : fieldOP w = 0x8#4) :
    decodeWord w = decodeFamily8 (fieldX w) (fieldY w) (fieldN4 w) := by
  unfold decodeWord; rw [h]; rfl
theorem decodeWord_family9 {w : Word} (h : fieldOP w = 0x9#4) :
    decodeWord w = if fieldN4 w = 0x0#4 then .ok (.sneReg (fieldX w) (fieldY w)) else .error .malformedLowNibble := by
  unfold decodeWord; rw [h]; rfl
theorem decodeWord_familyA {w : Word} (h : fieldOP w = 0xA#4) :
    decodeWord w = .ok (.ldIndex (fieldNNN w)) := by
  unfold decodeWord; rw [h]; rfl
theorem decodeWord_familyB {w : Word} (h : fieldOP w = 0xB#4) :
    decodeWord w = .ok (.jpV0 (fieldNNN w)) := by
  unfold decodeWord; rw [h]; rfl
theorem decodeWord_familyC {w : Word} (h : fieldOP w = 0xC#4) :
    decodeWord w = .ok (.rnd (fieldX w) (fieldNN w)) := by
  unfold decodeWord; rw [h]; rfl
theorem decodeWord_familyD {w : Word} (h : fieldOP w = 0xD#4) :
    decodeWord w = .ok (.drw (fieldX w) (fieldY w) (fieldN4 w)) := by
  unfold decodeWord; rw [h]; rfl
theorem decodeWord_familyE {w : Word} (h : fieldOP w = 0xE#4) :
    decodeWord w = decodeFamilyE (fieldX w) (fieldNN w) := by
  unfold decodeWord; rw [h]; rfl
theorem decodeWord_familyF {w : Word} (h : fieldOP w = 0xF#4) :
    decodeWord w = decodeFamilyF (fieldX w) (fieldNN w) := by
  unfold decodeWord; rw [h]; rfl

/-! ## A word under each mask of the opcode table (R94) -/

theorem and_F000 (w : Word) : w &&& 0xF000#16 = formatA (fieldOP w) 0#12 := by
  apply BitVec.eq_of_getLsbD_eq
  intro i hi
  simp only [formatA, fieldOP, BitVec.getLsbD_and, BitVec.getLsbD_append, BitVec.getLsbD_extractLsb']
  interval_cases i <;> simp
theorem and_F00F (w : Word) : w &&& 0xF00F#16 = formatR (fieldOP w) 0#4 0#4 (fieldN4 w) := by
  apply BitVec.eq_of_getLsbD_eq
  intro i hi
  simp only [formatR, fieldOP, fieldN4, BitVec.getLsbD_and, BitVec.getLsbD_append, BitVec.getLsbD_extractLsb']
  interval_cases i <;> simp
theorem and_F0FF (w : Word) : w &&& 0xF0FF#16 = formatI (fieldOP w) 0#4 (fieldNN w) := by
  apply BitVec.eq_of_getLsbD_eq
  intro i hi
  simp only [formatI, fieldOP, fieldNN, BitVec.getLsbD_and, BitVec.getLsbD_append, BitVec.getLsbD_extractLsb']
  interval_cases i <;> simp
theorem and_FFFF (w : Word) : w &&& 0xFFFF#16 = w := BitVec.and_allOnes

/-! ## The bytes of a word -/

@[simp] theorem wordOfBytes_high_low (w : Word) : wordOfBytes (highByte w) (lowByte w) = w := by
  apply BitVec.eq_of_toNat_eq; rw [toNat_wordOfBytes, toNat_highByte, toNat_lowByte]; omega
@[simp] theorem highByte_wordOfBytes (hi lo : Byte) : highByte (wordOfBytes hi lo) = hi := by
  apply BitVec.eq_of_toNat_eq; rw [toNat_highByte, toNat_wordOfBytes]; omega
@[simp] theorem lowByte_wordOfBytes (hi lo : Byte) : lowByte (wordOfBytes hi lo) = lo := by
  apply BitVec.eq_of_toNat_eq; rw [toNat_lowByte, toNat_wordOfBytes]; omega

end Sys2Proof
end

