-- ==== Sys2Proof/Laws/Exec.lean ====
section
/-! SUPPORT. What exec of each instruction can do, once per instruction: one equation where it can do one thing, a
list of cases where it can do more. -/

namespace Sys2Proof.Machine

variable (s : State)

/-! ## One thing (R122, R124 to R128) -/

@[simp] theorem exec_jp (nnn : Addr) : exec (.jp nnn) s = .next (s.setPc (zext16 nnn)) := rfl
@[simp] theorem exec_jpV0 (nnn : Addr) :
    exec (.jpV0 nnn) s = .next (s.setPc ((s.reg 0#4).setWidth 16 + zext16 nnn)) := rfl
@[simp] theorem exec_seImm (x : Nibble) (nn : Byte) :
    exec (.seImm x nn) s = .next (s.setPc (if s.reg x == nn then s.pc + 4 else s.pc + 2)) := rfl
@[simp] theorem exec_sneImm (x : Nibble) (nn : Byte) :
    exec (.sneImm x nn) s = .next (s.setPc (if s.reg x != nn then s.pc + 4 else s.pc + 2)) := rfl
@[simp] theorem exec_seReg (x y : Nibble) :
    exec (.seReg x y) s = .next (s.setPc (if s.reg x == s.reg y then s.pc + 4 else s.pc + 2)) := rfl
@[simp] theorem exec_sneReg (x y : Nibble) :
    exec (.sneReg x y) s = .next (s.setPc (if s.reg x != s.reg y then s.pc + 4 else s.pc + 2)) := rfl

/-! ## The register file (R151 to R162) -/

@[simp] theorem exec_ldImm (x : Nibble) (nn : Byte) : exec (.ldImm x nn) s = .next (s.finish x nn) := rfl
@[simp] theorem exec_addImm (x : Nibble) (nn : Byte) :
    exec (.addImm x nn) s = .next (s.finish x (s.reg x + nn)) := rfl
@[simp] theorem exec_ldReg (x y : Nibble) : exec (.ldReg x y) s = .next (s.finish x (s.reg y)) := rfl
@[simp] theorem exec_orReg (x y : Nibble) : exec (.orReg x y) s = .next (s.finish x (s.reg x ||| s.reg y)) := rfl
@[simp] theorem exec_andReg (x y : Nibble) : exec (.andReg x y) s = .next (s.finish x (s.reg x &&& s.reg y)) := rfl
@[simp] theorem exec_xorReg (x y : Nibble) : exec (.xorReg x y) s = .next (s.finish x (s.reg x ^^^ s.reg y)) := rfl
@[simp] theorem exec_addReg (x y : Nibble) : exec (.addReg x y) s =
    .next (s.finishWithFlag x (s.reg x + s.reg y) (carryFlag (s.reg x) (s.reg y))) := rfl
@[simp] theorem exec_subReg (x y : Nibble) : exec (.subReg x y) s =
    .next (s.finishWithFlag x (s.reg x - s.reg y) (noBorrowFlag (s.reg x) (s.reg y))) := rfl
@[simp] theorem exec_shrReg (x y : Nibble) : exec (.shrReg x y) s =
    .next (s.finishWithFlag x (s.reg y >>> 1) (shrFlag (s.reg y))) := rfl
@[simp] theorem exec_subnReg (x y : Nibble) : exec (.subnReg x y) s =
    .next (s.finishWithFlag x (s.reg y - s.reg x) (noBorrowFlag (s.reg y) (s.reg x))) := rfl
@[simp] theorem exec_shlReg (x y : Nibble) : exec (.shlReg x y) s =
    .next (s.finishWithFlag x (s.reg y <<< 1) (shlFlag (s.reg y))) := rfl
@[simp] theorem exec_rnd (x : Nibble) (nn : Byte) :
    exec (.rnd x nn) s = .next (s.countDraw.finish x (Config.rand s.draws &&& nn)) := rfl

/-! ## Index, display, timers, the key wait (R180 to R182, R201, R220 to R222, R229) -/

@[simp] theorem exec_ldIndex (nnn : Addr) :
    exec (.ldIndex nnn) s = .next ((s.setIndex (zext16 nnn)).setPc (s.pc + 2)) := rfl
@[simp] theorem exec_addIndex (x : Nibble) :
    exec (.addIndex x) s = .next ((s.setIndex (s.index + (s.reg x).setWidth 16)).setPc (s.pc + 2)) := rfl
@[simp] theorem exec_ldFont (x : Nibble) :
    exec (.ldFont x) s = .next ((s.setIndex ((s.reg x).setWidth 16 * 5#16)).setPc (s.pc + 2)) := rfl
@[simp] theorem exec_cls :
    exec .cls s = .next ((s.setDisplay Display.blank).fbUpdate.setPc (s.pc + 2)) := rfl
@[simp] theorem exec_ldFromDelay (x : Nibble) : exec (.ldFromDelay x) s = .next (s.finish x s.delayTimer) := rfl
@[simp] theorem exec_ldDelay (x : Nibble) :
    exec (.ldDelay x) s = .next ((s.setDelay (s.reg x)).setPc (s.pc + 2)) := rfl
@[simp] theorem exec_ldSound (x : Nibble) :
    exec (.ldSound x) s = .next ((s.setSound (s.reg x)).setPc (s.pc + 2)) := rfl
@[simp] theorem exec_ldKey (x : Nibble) :
    exec (.ldKey x) s = .next ((s.setWait (some x)).setKeyWake false) := rfl

/-! ## More than one thing -/

/-- `2NNN` (R123). -/
theorem exec_call_cases (nnn : Addr) :
    (s.stackSize.val = 48 ∧ exec (.call nnn) s = .next (s.raise (.stackOverflow s.pc (encode (.call nnn))))) ∨
    ∃ h : s.stackSize.val < 48, exec (.call nnn) s = .next ((s.setStack
      (s.stack.set s.stackSize.val (s.pc + 2) h) ⟨s.stackSize.val + 1, Nat.succ_lt_succ h⟩).setPc (zext16 nnn)) := by
  by_cases h : s.stackSize.val < 48
  · exact .inr ⟨h, by simp [exec, execCall, s.push_of_lt _ h]⟩
  · have : s.stackSize.val = 48 := by omega
    exact .inl ⟨this, by simp [exec, execCall, s.push_full _ this]⟩

/-- `00EE` (R121). -/
theorem exec_ret_cases :
    (s.stackSize.val = 0 ∧ exec .ret s = .next (s.raise (.stackUnderflow s.pc (encode .ret)))) ∨
    ∃ k : Fin 48, s.stackSize.val = k.val + 1 ∧
      exec .ret s = .next ((s.setStack s.stack k.castSucc).setPc s.stack[k]) := by
  by_cases h : s.stackSize.val = 0
  · exact .inl ⟨h, by simp [exec, execRet, s.pop_empty h]⟩
  · refine .inr ⟨⟨s.stackSize.val - 1, by omega⟩, by simp; omega, ?_⟩
    simp only [exec, execRet, s.pop_of_pos h]
    rfl

/-- `EX9E` (R224, R226). -/
theorem exec_skp_cases (x : Nibble) :
    (15 < (s.reg x).toNat ∧
      exec (.skp x) s = .next (s.raise (.keyIndexRange s.pc (encode (.skp x)) (s.reg x)))) ∨
    ∃ k : Fin 16, (s.reg x).toNat = k.val ∧
      exec (.skp x) s = .next (s.setPc (if s.keys[k] = true then s.pc + 4 else s.pc + 2)) := by
  by_cases h : (s.reg x).toNat < 16
  · exact .inr ⟨⟨_, h⟩, rfl, by simp [exec, execSkp, s.keyAt_of_lt _ h]⟩
  · exact .inl ⟨by omega, by simp [exec, execSkp, s.keyAt_none _ (show 15 < (s.reg x).toNat by omega)]⟩

/-- `EXA1` (R225, R226). -/
theorem exec_sknp_cases (x : Nibble) :
    (15 < (s.reg x).toNat ∧
      exec (.sknp x) s = .next (s.raise (.keyIndexRange s.pc (encode (.sknp x)) (s.reg x)))) ∨
    ∃ k : Fin 16, (s.reg x).toNat = k.val ∧
      exec (.sknp x) s = .next (s.setPc (if s.keys[k] = false then s.pc + 4 else s.pc + 2)) := by
  by_cases h : (s.reg x).toNat < 16
  · exact .inr ⟨⟨_, h⟩, rfl, by simp [exec, execSknp, s.keyAt_of_lt _ h]⟩
  · exact .inl ⟨by omega, by simp [exec, execSknp, s.keyAt_none _ (show 15 < (s.reg x).toNat by omega)]⟩

/-- `FX33` (R183). -/
theorem exec_bcd_cases (x : Nibble) :
    (4096 < s.index.toNat + 3 ∧
      exec (.bcd x) s = .next (s.raise (.memBounds s.pc (encode (.bcd x)) s.index 3))) ∨
    (s.index.toNat + 3 ≤ 4096 ∧ ∃ m, exec (.bcd x) s = .next ((s.setMem m).setPc (s.pc + 2)) ∧
      (Memory.wf s.font s.mem = true → Memory.wf s.font m = true) ∧
      (∀ k, k < 3 → (s.setMem m).readByte (s.index.toNat + k) = (bcdDigits (s.reg x))[k]?) ∧
      (∀ k, k < s.index.toNat ∨ s.index.toNat + 3 ≤ k → (s.setMem m).readByte k = s.readByte k)) := by
  by_cases h : s.index.toNat + 3 ≤ 4096
  · exact .inr ⟨h, State.storeAtIndex_in (bs := bcdDigits (s.reg x)) _ _ (State.dataInBounds_of_le h)⟩
  · exact .inl ⟨by omega, State.storeAtIndex_out (bs := bcdDigits (s.reg x)) _ _
      (State.dataInBounds_of_gt (by simp) (by simp; omega))⟩

/-- `FX55` (R184). -/
theorem exec_storeRegs_cases (x : Nibble) :
    (4096 < s.index.toNat + blockLength x ∧ exec (.storeRegs x) s =
      .next (s.raise (.memBounds s.pc (encode (.storeRegs x)) s.index (blockLength x)))) ∨
    (s.index.toNat + blockLength x ≤ 4096 ∧ ∃ m, exec (.storeRegs x) s =
        .next (((s.setMem m).setIndex (s.index + BitVec.ofNat 16 (blockLength x))).setPc (s.pc + 2)) ∧
      (Memory.wf s.font s.mem = true → Memory.wf s.font m = true) ∧
      (∀ k, k < blockLength x → (s.setMem m).readByte (s.index.toNat + k) = (s.regBlock x)[k]?) ∧
      (∀ k, k < s.index.toNat ∨ s.index.toNat + blockLength x ≤ k → (s.setMem m).readByte k = s.readByte k)) := by
  have hl : (s.regBlock x).length = blockLength x := s.regBlock_length x
  by_cases h : s.index.toNat + blockLength x ≤ 4096
  · obtain ⟨m, he, hm⟩ := State.storeAtIndex_in (s := s) (bs := s.regBlock x) (encode (.storeRegs x))
      (fun t => (t.bumpIndex x).advance) (State.dataInBounds_of_le (by omega))
    rw [hl] at hm
    exact .inr ⟨h, m, he, hm⟩
  · have he := State.storeAtIndex_out (s := s) (bs := s.regBlock x) (encode (.storeRegs x))
      (fun t => (t.bumpIndex x).advance) (State.dataInBounds_of_gt (by simp) (by omega))
    rw [hl] at he
    exact .inl ⟨by omega, he⟩

/-- `FX65` (R185). -/
theorem exec_loadRegs_cases (x : Nibble) :
    (4096 < s.index.toNat + blockLength x ∧ exec (.loadRegs x) s =
      .next (s.raise (.memBounds s.pc (encode (.loadRegs x)) s.index (blockLength x)))) ∨
    (s.index.toNat + blockLength x ≤ 4096 ∧ ∃ v, exec (.loadRegs x) s =
        .next (((s.setRegs v).setIndex (s.index + BitVec.ofNat 16 (blockLength x))).setPc (s.pc + 2)) ∧
      (∀ k : Nibble, k.toNat ≤ x.toNat → s.readByte (s.index.toNat + k.toNat) = some ((s.setRegs v).reg k)) ∧
      (∀ k : Nibble, x.toNat < k.toNat → (s.setRegs v).reg k = s.reg k)) := by
  by_cases h : s.index.toNat + blockLength x ≤ 4096
  · refine .inr ⟨h, ?_⟩
    obtain ⟨bs, he, hl, hr⟩ := State.loadAtIndex_in (encode (.loadRegs x))
      (fun bs => ((s.setRegsFrom 0 bs).bumpIndex x).advance) (State.dataInBounds_of_le h)
    obtain ⟨h1, h2, v, hv⟩ := s.setRegsFrom_block x bs hl
    rw [hv] at h1 h2
    refine ⟨v, ?_, fun k hk => by rw [hr _ (by simp only [blockLength]; omega), h1 k hk], h2⟩
    rw [hv] at he
    exact he
  · exact .inl ⟨by omega, State.loadAtIndex_out _ _ (State.dataInBounds_of_gt (by simp) (by omega))⟩

/-- The end of `DXYN`: another display, another VF, an update event where a row was drawn, `pc + 2` (R202). -/
theorem State.drawSprite_eq (x y : Nibble) (sprite : List Byte) :
    s.drawSprite x y sprite =
      (let drawn := drawRows s.display ((s.reg x).toNat % 64) ((s.reg y).toNat % 32) (s.reg 0xF#4) sprite
      let t := (s.setDisplay drawn.1).setReg 0xF#4 drawn.2
      (if sprite.isEmpty then t else t.fbUpdate).setPc (s.pc + 2)) := by
  unfold State.drawSprite
  split <;> rfl

/-- `DXYN` (R202): beyond memory, no rows, or rows. -/
theorem exec_drw_cases (x y n : Nibble) :
    (n.toNat ≠ 0 ∧ 4096 < s.index.toNat + n.toNat ∧ exec (.drw x y n) s =
      .next (s.raise (.memBounds s.pc (encode (.drw x y n)) s.index n.toNat))) ∨
    (n.toNat = 0 ∧ exec (.drw x y n) s = .next (s.drawSprite x y [])) ∨
    (n.toNat ≠ 0 ∧ s.index.toNat + n.toNat ≤ 4096 ∧ ∃ sprite : List Byte, sprite.length = n.toNat ∧
      (∀ k, k < n.toNat → s.readByte (s.index.toNat + k) = sprite[k]?) ∧
      exec (.drw x y n) s = .next (s.drawSprite x y sprite)) := by
  by_cases h0 : n.toNat = 0
  · refine .inr (.inl ⟨h0, ?_⟩)
    simp [exec, execDrw, State.loadAtIndex, State.dataInBounds, State.readBytes, h0]
  · by_cases h : s.index.toNat + n.toNat ≤ 4096
    · obtain ⟨bs, he, hl, hr⟩ := State.loadAtIndex_in (encode (.drw x y n)) (fun sprite => s.drawSprite x y sprite)
        (State.dataInBounds_of_le h)
      exact .inr (.inr ⟨h0, h, bs, hl, hr, he⟩)
    · exact .inl ⟨h0, by omega, State.loadAtIndex_out _ _ (State.dataInBounds_of_gt h0 (by omega))⟩

end Sys2Proof.Machine
end

