-- ==== Sys2Proof/Laws/PerInstr.lean ====
section
/-! SUPPORT. The family TableRow, one lemma for each instruction: the encoding of the instruction is covered by the
instruction's own row of the opcode table, and the row is a row of the table (30_encoding.md R94). -/

namespace Sys2Proof.Laws.TableRow

/-- The word of `i` matches the row of `i` under the row's mask, and that row is in the table. -/
def Statement (i : Instr) : Prop := i.row ∈ opcodeTable ∧ i.row.covers (encode i) = true

/-- A word of format A under the mask 0xF000. -/
theorem covers_formatA (op : Nibble) (nnn : Addr) :
    (OpcodeRow.mk 0xF000#16 (formatA op 0#12)).covers (formatA op nnn) = true := by
  simp [OpcodeRow.covers, and_F000]

/-- A word of format I under the mask 0xF000. -/
theorem covers_formatI (op x : Nibble) (nn : Byte) :
    (OpcodeRow.mk 0xF000#16 (formatA op 0#12)).covers (formatI op x nn) = true := by
  simp [OpcodeRow.covers, and_F000]

/-- A word of format D under the mask 0xF000. -/
theorem covers_formatD (op x y n : Nibble) :
    (OpcodeRow.mk 0xF000#16 (formatA op 0#12)).covers (formatR op x y n) = true := by
  simp [OpcodeRow.covers, and_F000]

/-- A word of format R under the mask 0xF00F. -/
theorem covers_formatR (op x y n : Nibble) :
    (OpcodeRow.mk 0xF00F#16 (formatR op 0#4 0#4 n)).covers (formatR op x y n) = true := by
  simp [OpcodeRow.covers, and_F00F]

/-- A word of format U under the mask 0xF0FF. -/
theorem covers_formatU (op x : Nibble) (nn : Byte) :
    (OpcodeRow.mk 0xF0FF#16 (formatI op 0#4 nn)).covers (formatI op x nn) = true := by
  simp [OpcodeRow.covers, and_F0FF]

theorem cls : Statement .cls := ⟨by decide, by decide⟩
theorem ret : Statement .ret := ⟨by decide, by decide⟩
theorem jp (nnn : Addr) : Statement (.jp nnn) := ⟨by simp only [Instr.row]; decide, covers_formatA _ _⟩
theorem call (nnn : Addr) : Statement (.call nnn) := ⟨by simp only [Instr.row]; decide, covers_formatA _ _⟩
theorem seImm (x : Nibble) (nn : Byte) : Statement (.seImm x nn) := ⟨by simp only [Instr.row]; decide, covers_formatI _ _ _⟩
theorem sneImm (x : Nibble) (nn : Byte) : Statement (.sneImm x nn) := ⟨by simp only [Instr.row]; decide, covers_formatI _ _ _⟩
theorem seReg (x y : Nibble) : Statement (.seReg x y) := ⟨by simp only [Instr.row]; decide, covers_formatR _ _ _ _⟩
theorem ldImm (x : Nibble) (nn : Byte) : Statement (.ldImm x nn) := ⟨by simp only [Instr.row]; decide, covers_formatI _ _ _⟩
theorem addImm (x : Nibble) (nn : Byte) : Statement (.addImm x nn) := ⟨by simp only [Instr.row]; decide, covers_formatI _ _ _⟩
theorem ldReg (x y : Nibble) : Statement (.ldReg x y) := ⟨by simp only [Instr.row]; decide, covers_formatR _ _ _ _⟩
theorem orReg (x y : Nibble) : Statement (.orReg x y) := ⟨by simp only [Instr.row]; decide, covers_formatR _ _ _ _⟩
theorem andReg (x y : Nibble) : Statement (.andReg x y) := ⟨by simp only [Instr.row]; decide, covers_formatR _ _ _ _⟩
theorem xorReg (x y : Nibble) : Statement (.xorReg x y) := ⟨by simp only [Instr.row]; decide, covers_formatR _ _ _ _⟩
theorem addReg (x y : Nibble) : Statement (.addReg x y) := ⟨by simp only [Instr.row]; decide, covers_formatR _ _ _ _⟩
theorem subReg (x y : Nibble) : Statement (.subReg x y) := ⟨by simp only [Instr.row]; decide, covers_formatR _ _ _ _⟩
theorem shrReg (x y : Nibble) : Statement (.shrReg x y) := ⟨by simp only [Instr.row]; decide, covers_formatR _ _ _ _⟩
theorem subnReg (x y : Nibble) : Statement (.subnReg x y) := ⟨by simp only [Instr.row]; decide, covers_formatR _ _ _ _⟩
theorem shlReg (x y : Nibble) : Statement (.shlReg x y) := ⟨by simp only [Instr.row]; decide, covers_formatR _ _ _ _⟩
theorem sneReg (x y : Nibble) : Statement (.sneReg x y) := ⟨by simp only [Instr.row]; decide, covers_formatR _ _ _ _⟩
theorem ldIndex (nnn : Addr) : Statement (.ldIndex nnn) := ⟨by simp only [Instr.row]; decide, covers_formatA _ _⟩
theorem jpV0 (nnn : Addr) : Statement (.jpV0 nnn) := ⟨by simp only [Instr.row]; decide, covers_formatA _ _⟩
theorem rnd (x : Nibble) (nn : Byte) : Statement (.rnd x nn) := ⟨by simp only [Instr.row]; decide, covers_formatI _ _ _⟩
theorem drw (x y n : Nibble) : Statement (.drw x y n) := ⟨by simp only [Instr.row]; decide, covers_formatD _ _ _ _⟩
theorem skp (x : Nibble) : Statement (.skp x) := ⟨by simp only [Instr.row]; decide, covers_formatU _ _ _⟩
theorem sknp (x : Nibble) : Statement (.sknp x) := ⟨by simp only [Instr.row]; decide, covers_formatU _ _ _⟩
theorem ldFromDelay (x : Nibble) : Statement (.ldFromDelay x) := ⟨by simp only [Instr.row]; decide, covers_formatU _ _ _⟩
theorem ldKey (x : Nibble) : Statement (.ldKey x) := ⟨by simp only [Instr.row]; decide, covers_formatU _ _ _⟩
theorem ldDelay (x : Nibble) : Statement (.ldDelay x) := ⟨by simp only [Instr.row]; decide, covers_formatU _ _ _⟩
theorem ldSound (x : Nibble) : Statement (.ldSound x) := ⟨by simp only [Instr.row]; decide, covers_formatU _ _ _⟩
theorem addIndex (x : Nibble) : Statement (.addIndex x) := ⟨by simp only [Instr.row]; decide, covers_formatU _ _ _⟩
theorem ldFont (x : Nibble) : Statement (.ldFont x) := ⟨by simp only [Instr.row]; decide, covers_formatU _ _ _⟩
theorem bcd (x : Nibble) : Statement (.bcd x) := ⟨by simp only [Instr.row]; decide, covers_formatU _ _ _⟩
theorem storeRegs (x : Nibble) : Statement (.storeRegs x) := ⟨by simp only [Instr.row]; decide, covers_formatU _ _ _⟩
theorem loadRegs (x : Nibble) : Statement (.loadRegs x) := ⟨by simp only [Instr.row]; decide, covers_formatU _ _ _⟩

end Sys2Proof.Laws.TableRow
end

