-- ==== Sys2Proof/Laws/Step.lean ====
section
/-! SUPPORT. What a step can do, said once: which agent moves, what the executor's turn is, what an instruction step
is. -/

namespace Sys2Proof.Machine

/-! ## Who moves -/

/-- With a turn on the agenda, the step is that turn's. -/
theorem step_turn {s : State} {turn : Turn} {rest : List Turn} (h : s.agenda = turn :: rest) :
    step s = (s.setAgenda rest).takeTurn turn := by
  simp [step, State.agentStep, h]

/-- With an empty agenda, the step is the default turn. -/
theorem step_default {s : State} (h : s.agenda = []) : step s = s.defaultTurn := by
  simp [step, State.agentStep, h]

/-- Where the executor moves next, the step is its turn. -/
theorem step_executor {s : State} {rest : List Turn}
    (h : s.agenda = .executor :: rest ∨ (s.agenda = [] ∧ rest = [] ∧ s.running = true)) :
    step s = (s.setAgenda rest).executorTurn := by
  rcases h with h | ⟨h, rfl, hr⟩
  · rw [step_turn h]; rfl
  · have : s.setAgenda [] = s := by cases s; simp_all [State.setAgenda]
    rw [step_default h, this]
    simp [State.defaultTurn, hr]

/-! ## The executor -/

/-- The executor has no step where it has ceased or is halted. -/
theorem executorTurn_idle {s : State} (h : s.executorActive = false ∨ s.execHalted = true) :
    s.executorTurn = .next s := by
  rcases h with h | h <;> simp [State.executorTurn, h]

/-- The executor blocked in an `FX0A`. -/
theorem executorTurn_wait {s : State} {x : Nibble} (ha : s.executorActive = true) (hh : s.execHalted = false)
    (hw : s.wait = some x) : s.executorTurn = .next (if s.keyWake then s.wakeStep x else s) := by
  simp [State.executorTurn, ha, hh, hw]

/-- The executor with an instruction step. -/
theorem executorTurn_ready {s : State} (ha : s.executorActive = true) (hh : s.execHalted = false)
    (hw : s.wait = none) : s.executorTurn = s.instructionStep := by
  simp [State.executorTurn, ha, hh, hw]

/-- Everything the executor's turn can be. -/
theorem executorTurn_cases (s : State) :
    ((s.executorActive = false ∨ s.execHalted = true) ∧ s.executorTurn = .next s) ∨
    (s.executorActive = true ∧ s.execHalted = false ∧ s.wait = none ∧ s.executorTurn = s.instructionStep) ∨
    (∃ x, s.executorActive = true ∧ s.execHalted = false ∧ s.wait = some x ∧ s.keyWake = false ∧
      s.executorTurn = .next s) ∨
    (∃ x, s.executorActive = true ∧ s.execHalted = false ∧ s.wait = some x ∧ s.keyWake = true ∧
      s.executorTurn = .next (s.wakeStep x)) := by
  cases ha : s.executorActive with
  | false => exact .inl ⟨.inl rfl, executorTurn_idle (.inl ha)⟩
  | true =>
    cases hh : s.execHalted with
    | true => exact .inl ⟨.inr rfl, executorTurn_idle (.inr hh)⟩
    | false =>
      cases hw : s.wait with
      | none => exact .inr (.inl ⟨rfl, rfl, rfl, executorTurn_ready ha hh hw⟩)
      | some x =>
        cases hk : s.keyWake with
        | false => exact .inr (.inr (.inl ⟨x, rfl, rfl, rfl, rfl, by simp [executorTurn_wait ha hh hw, hk]⟩))
        | true => exact .inr (.inr (.inr ⟨x, rfl, rfl, rfl, rfl, by simp [executorTurn_wait ha hh hw, hk]⟩))

/-- Everything an instruction step can be (R120): the fetch bound, an invalid word, or an instruction. -/
theorem instructionStep_cases (s : State) :
    (4094 < s.pc.toNat ∧ s.instructionStep = .next (s.raise (.pcBounds s.pc))) ∨
    (s.pc.toNat ≤ 4094 ∧ ∃ w, s.readWord s.pc.toNat = some w ∧
      ((∃ e, decodeWord w = .error e ∧ s.instructionStep = .next (s.raise (reportInvalid e s.pc w))) ∨
        ∃ i, decodeWord w = .ok i ∧ s.instructionStep = exec i s)) := by
  by_cases hp : s.pc.toNat ≤ 4094
  · refine .inr ⟨hp, ?_⟩
    obtain ⟨hi, h1⟩ := s.readByte_isSome s.pc.toNat (by omega)
    obtain ⟨lo, h2⟩ := s.readByte_isSome (s.pc.toNat + 1) (by omega)
    have hw := State.readWord_of_bytes h1 h2
    refine ⟨_, hw, ?_⟩
    cases hd : decodeWord (wordOfBytes hi lo) with
    | error e => exact .inl ⟨e, rfl, by simp [State.instructionStep, State.fetchable, hp, hw, hd]⟩
    | ok i => exact .inr ⟨i, rfl, by simp [State.instructionStep, State.fetchable, hp, hw, hd]⟩
  · exact .inl ⟨by omega, by simp [State.instructionStep, State.fetchable, hp]⟩

/-! ## The host -/

/-- Everything a load can do (R79): the image in memory, or a configuration error; never a model fault. -/
theorem loadImage_cases (s : State) (image : List Byte) :
    (image.length ≤ progMax ∧ ∃ m, s.loadImage image = .next ((s.setMem m).setLoadResult .success) ∧
      (Memory.wf s.font s.mem = true → Memory.wf s.font m = true) ∧
      (∀ k, k < image.length → (s.setMem m).readByte (progBase + k) = image[k]?) ∧
      (∀ k, k < progBase ∨ progBase + image.length ≤ k → (s.setMem m).readByte k = s.readByte k)) ∨
    (progMax < image.length ∧ s.loadImage image = .next (s.setLoadResult .configurationError)) := by
  by_cases h : image.length ≤ progMax
  · obtain ⟨t, ht⟩ := s.writeBytes_isSome progBase image (by simp only [progMax, progBase] at h ⊢; omega)
    obtain ⟨m, rfl, hw, h1, h2⟩ := State.writeBytes_spec ht
    exact .inl ⟨h, m, by simp [State.loadImage, h, ht], hw, h1, h2⟩
  · exact .inr ⟨by omega, by simp [State.loadImage, h]⟩

/-! ## The whole step -/

/-- Everything a step that answers a next state can be: one alternative for each agent's move, on the state with
the turn taken off the agenda. -/
theorem step_next_cases {s t : State} (h : step s = .next t) :
    ∃ rest, (s.agenda = [] ∧ rest = [] ∨ ∃ turn, s.agenda = turn :: rest) ∧
      ((s.ExecutorNext rest ∧ (s.setAgenda rest).executorTurn = .next t) ∨
      t = (s.setAgenda rest).executorObservesStop ∨
      ((s.agenda = .tick :: rest) ∧ t = (s.setAgenda rest).tickTurn) ∨
      t = (s.setAgenda rest).tickObservesStop ∨
      (∃ kind code, s.agenda = .key kind code :: rest ∧ t = (s.setAgenda rest).keyEvent kind code) ∨
      (s.agenda = .initMachine :: rest ∧ s.stopped = true ∧ t = (s.setAgenda rest).initMachine) ∨
      (∃ image, s.agenda = .load image :: rest ∧ s.stopped = true ∧
        (s.setAgenda rest).loadImage image = .next t) ∨
      (s.agenda = .start :: rest ∧ s.stopped = true ∧ t = (s.setAgenda rest).startMachine) ∨
      (s.agenda = .stop :: rest ∧ s.running = true ∧ t = (s.setAgenda rest).stopMachine)) := by
  cases ha : s.agenda with
  | nil =>
    have e : s.setAgenda [] = s := by cases s; simp_all [State.setAgenda]
    rw [step_default ha] at h
    refine ⟨[], .inl ⟨rfl, rfl⟩, ?_⟩
    rw [e]
    unfold State.defaultTurn at h
    split at h
    · next hr => exact .inl ⟨.inr ⟨ha, rfl, hr⟩, h⟩
    · split at h <;> injection h with h
      · exact .inr (.inl h.symm)
      · exact .inr (.inr (.inr (.inl h.symm)))
  | cons turn rest =>
    rw [step_turn ha] at h
    refine ⟨rest, .inr ⟨turn, rfl⟩, ?_⟩
    cases turn <;> simp only [State.takeTurn, Host.Outcome.next.injEq] at h
    case executor => exact .inl ⟨.inl ha, h⟩
    case executorObservesStop => exact .inr (.inl h.symm)
    case tick => exact .inr (.inr (.inl ⟨rfl, h.symm⟩))
    case tickObservesStop => exact .inr (.inr (.inr (.inl h.symm)))
    case key kind code => exact .inr (.inr (.inr (.inr (.inl ⟨kind, code, rfl, h.symm⟩))))
    case initMachine =>
      split at h
      · next hs => injection h with h; exact .inr (.inr (.inr (.inr (.inr (.inl ⟨rfl, hs, h.symm⟩)))))
      · cases h
    case load image =>
      split at h
      · next hs => exact .inr (.inr (.inr (.inr (.inr (.inr (.inl ⟨image, rfl, hs, h⟩))))))
      · cases h
    case start =>
      split at h
      · next hs =>
        injection h with h
        exact .inr (.inr (.inr (.inr (.inr (.inr (.inr (.inl ⟨rfl, hs, h.symm⟩)))))))
      · cases h
    case stop =>
      split at h
      · next hs =>
        injection h with h
        exact .inr (.inr (.inr (.inr (.inr (.inr (.inr (.inr ⟨rfl, hs, h.symm⟩)))))))
      · cases h

end Sys2Proof.Machine
end

