-- ==== Sys2Proof/Laws/Shapes.lean ====
section
/-! SUPPORT. How an instruction is shown to have one of the shapes of Safety.lean, and what a step on a given word
is. -/

namespace Sys2Proof.Machine

theorem movesOnlyPc_of {i : Instr} {s : State} {target : Word} (h : exec i s = .next (s.setPc target)) :
    MovesOnlyPc i s target :=
  ⟨_, h, rfl, by constructor <;> simp⟩

theorem writesRegister_of {i : Instr} {s : State} {x : Nibble} {b : Byte} {value : Nat}
    (h : exec i s = .next (s.finish x b)) (hb : b.toNat = value) : WritesRegister i s x value :=
  ⟨_, h, by simp [hb], fun y hy => by simp at hy; simp [hy], by simp, by constructor <;> simp⟩

theorem writesRegisterAndFlag_of {i : Instr} {s : State} {x : Nibble} {b f : Byte} {value flag : Nat}
    (h : exec i s = .next (s.finishWithFlag x b f)) (hb : b.toNat = value) (hf : f.toNat = flag) :
    WritesRegisterAndFlag i s x value flag :=
  ⟨_, h, by simp [hf], fun hx => by simp [hx, hb], fun y hy => by simp at hy; simp [hy], by simp,
    by constructor <;> simp⟩

theorem reportsOnly_of {i : Instr} {s : State} {r : Report} (h : exec i s = .next (s.raise r))
    (hm : r.marks = true) (hf : r.fatal = false) : ReportsOnly i s r (r.pcAfter s.pc) :=
  ⟨_, h, by simp, by simp [hm], by simp, by constructor <;> simp [hf]⟩

/-- The step where the executor is about to run the word `w` (R120): the instruction it decodes to, or its report. -/
theorem step_aboutToRun {s : State} {w : Word} {rest : List Turn} (h : s.AboutToRun w rest) :
    (∃ i, decodeWord w = .ok i ∧ step s = exec i (s.setAgenda rest)) ∨
    (∃ e, decodeWord w = .error e ∧ step s = .next ((s.setAgenda rest).raise (reportInvalid e s.pc w))) := by
  obtain ⟨⟨ha, hh, hw⟩, hn, hp, h1, h2⟩ := h
  rw [step_executor hn, executorTurn_ready (s := s.setAgenda rest) ha hh hw]
  have hr : (s.setAgenda rest).readWord s.pc.toNat = some w := by
    have := State.readWord_of_bytes (s := s.setAgenda rest) h1 h2
    simpa using this
  cases hd : decodeWord w with
  | ok i => exact .inl ⟨i, rfl, by simp [State.instructionStep, State.fetchable, hp, hr, hd]⟩
  | error e => exact .inr ⟨e, rfl, by simp [State.instructionStep, State.fetchable, hp, hr, hd]⟩

/-! ## Frames -/

/-- What two steps leave unchanged. -/
theorem Unchanged.trans {a b : List Part} {s t u : State} (h : Unchanged a s t) (k : Unchanged b t u) :
    Unchanged (a ++ b) s u where
  regs hp := by
    rw [List.mem_append] at hp
    exact fun a => (k.regs (fun m => hp (.inr m)) a).trans (h.regs (fun m => hp (.inl m)) a)
  index hp := by
    rw [List.mem_append] at hp
    exact (k.index fun m => hp (.inr m)).trans (h.index fun m => hp (.inl m))
  pc hp := by
    rw [List.mem_append] at hp
    exact (k.pc fun m => hp (.inr m)).trans (h.pc fun m => hp (.inl m))
  stack hp := by
    rw [List.mem_append] at hp
    exact ⟨(k.stack fun m => hp (.inr m)).1.trans (h.stack fun m => hp (.inl m)).1,
      (k.stack fun m => hp (.inr m)).2.trans (h.stack fun m => hp (.inl m)).2⟩
  memory hp := by
    rw [List.mem_append] at hp
    exact fun a => (k.memory (fun m => hp (.inr m)) a).trans (h.memory (fun m => hp (.inl m)) a)
  display hp := by
    rw [List.mem_append] at hp
    exact (k.display fun m => hp (.inr m)).trans (h.display fun m => hp (.inl m))
  delayTimer hp := by
    rw [List.mem_append] at hp
    exact (k.delayTimer fun m => hp (.inr m)).trans (h.delayTimer fun m => hp (.inl m))
  soundTimer hp := by
    rw [List.mem_append] at hp
    exact (k.soundTimer fun m => hp (.inr m)).trans (h.soundTimer fun m => hp (.inl m))
  keys hp := by
    rw [List.mem_append] at hp
    exact ⟨(k.keys fun m => hp (.inr m)).1.trans (h.keys fun m => hp (.inl m)).1,
      (k.keys fun m => hp (.inr m)).2.trans (h.keys fun m => hp (.inl m)).2⟩
  keyWait hp := by
    rw [List.mem_append] at hp
    exact ⟨(k.keyWait fun m => hp (.inr m)).1.trans (h.keyWait fun m => hp (.inl m)).1,
      (k.keyWait fun m => hp (.inr m)).2.trans (h.keyWait fun m => hp (.inl m)).2⟩
  lifecycle hp := by
    rw [List.mem_append] at hp
    obtain ⟨k1, k2, k3, k4⟩ := k.lifecycle fun m => hp (.inr m)
    obtain ⟨h1, h2, h3, h4⟩ := h.lifecycle fun m => hp (.inl m)
    exact ⟨k1.trans h1, k2.trans h2, k3.trans h3, k4.trans h4⟩
  reports hp := by
    rw [List.mem_append] at hp
    exact ⟨(k.reports fun m => hp (.inr m)).1.trans (h.reports fun m => hp (.inl m)).1,
      (k.reports fun m => hp (.inr m)).2.trans (h.reports fun m => hp (.inl m)).2⟩
  fbUpdates hp := by
    rw [List.mem_append] at hp
    exact (k.fbUpdates fun m => hp (.inr m)).trans (h.fbUpdates fun m => hp (.inl m))
  draws hp := by
    rw [List.mem_append] at hp
    exact (k.draws fun m => hp (.inr m)).trans (h.draws fun m => hp (.inl m))
  loadResult hp := by
    rw [List.mem_append] at hp
    exact (k.loadResult fun m => hp (.inr m)).trans (h.loadResult fun m => hp (.inl m))
  agenda hp := by
    rw [List.mem_append] at hp
    exact (k.agenda fun m => hp (.inr m)).trans (h.agenda fun m => hp (.inl m))
  font hp := by
    rw [List.mem_append] at hp
    exact (k.font fun m => hp (.inr m)).trans (h.font fun m => hp (.inl m))

/-- A frame that lets more change. -/
theorem Unchanged.mono {a b : List Part} {s t : State} (h : Unchanged a s t) (hab : a ⊆ b) : Unchanged b s t where
  regs hp := h.regs fun m => hp (hab m)
  index hp := h.index fun m => hp (hab m)
  pc hp := h.pc fun m => hp (hab m)
  stack hp := h.stack fun m => hp (hab m)
  memory hp := h.memory fun m => hp (hab m)
  display hp := h.display fun m => hp (hab m)
  delayTimer hp := h.delayTimer fun m => hp (hab m)
  soundTimer hp := h.soundTimer fun m => hp (hab m)
  keys hp := h.keys fun m => hp (hab m)
  keyWait hp := h.keyWait fun m => hp (hab m)
  lifecycle hp := h.lifecycle fun m => hp (hab m)
  reports hp := h.reports fun m => hp (hab m)
  fbUpdates hp := h.fbUpdates fun m => hp (hab m)
  draws hp := h.draws fun m => hp (hab m)
  loadResult hp := h.loadResult fun m => hp (hab m)
  agenda hp := h.agenda fun m => hp (hab m)
  font hp := h.font fun m => hp (hab m)

/-! ## The agents -/

/-- A timer after a tick, in numbers (R31, R223). -/
@[simp] theorem toNat_countDown (b : Byte) : (countDown b).toNat = b.toNat - 1 := by
  have hb := b.isLt
  unfold countDown
  split
  · next h => simp [h]
  · next h =>
    have : b.toNat ≠ 0 := fun e => h (BitVec.eq_of_toNat_eq e)
    rw [BitVec.toNat_sub]
    simp
    omega

/-- A tick of a tick agent that has not ceased (R223). -/
theorem tickTurn_active {s : State} (h : s.tickActive = true) : s.tickTurn =
    ((s.setDelay (countDown s.delayTimer)).setSound (countDown s.soundTimer)).setTickActive s.running := by
  simp [State.tickTurn, h]

/-- No tick of a tick agent that has ceased (R293). -/
theorem tickTurn_ceased {s : State} (h : s.tickActive = false) : s.tickTurn = s := by
  simp [State.tickTurn, h]

/-- The placed machine is about to run the placed word. -/
theorem placeWord_aboutToRun (s : State) (w : Word) : (s.placeWord w).AboutToRun w [] := by
  have hpc : (s.placeWord w).pc.toNat ≤ 4094 := by
    simp only [State.placeWord]
    split <;> simp_all
  obtain ⟨m, hm⟩ := Memory.writeBytes_isSome s.font s.mem (s.placeWord w).pc.toNat [highByte w, lowByte w]
    (by simp only [List.length_cons, List.length_nil]; omega)
  have hmem : (s.placeWord w).mem = m := by
    show (Memory.writeBytes s.font s.mem (s.placeWord w).pc.toNat [highByte w, lowByte w]).getD s.mem = m
    rw [hm]
    rfl
  obtain ⟨hin, -⟩ := Memory.writeBytes_spec hm
  have h0 := hin 0 (by simp)
  have h1 := hin 1 (by simp)
  rw [← hmem] at h0 h1
  exact ⟨⟨rfl, rfl, rfl⟩, .inr ⟨rfl, rfl, rfl⟩, hpc, h0, h1⟩

end Sys2Proof.Machine
end

