-- ==== Sys2Proof/Tests/Slice0.lean ====
section
/-! SUPPORT. The model's own tests. Expected results come from spec/: the encodings from the fields of
30_encoding.md R91 and the patterns of R94, the steps from 95_test_vectors.md (named in each comment) or the worked
example of the instruction's rule. At the end, for each statement of Obligations.lean with hypotheses, a state and
operands that meet them. -/

namespace Sys2Proof.Machine.Tests

open Sys2Proof Sys2Proof.Machine

/-- The state of an outcome. -/
def result (o : Host.Outcome State Fault Refusal) : Option State :=
  match o with
  | .next t => some t
  | _ => none

/-- The state after one step on the word `w`, placed at 0x200 (or where `pc` is). -/
def after (s : State) (w : Nat) : Option State := result (step (s.withFetchWord 16 w))

/-- The reset state with these registers. -/
def regs (l : List (Nibble × Byte)) : State := l.foldl (fun s p => s.setReg p.1 p.2) State.reset

/-- A state with bytes stored at an address. -/
def store (s : State) (a : Nat) (bs : List Byte) : State := (s.writeBytes a bs).getD s

/-- The reset state as a Running machine, with these turns to come. -/
def runningWith (turns : List Turn) : State := State.reset.startMachine.setAgenda turns

/-! ## Decoding: each constructor from a word written out in bits -/

theorem test_decode_cls : decodeWord 0b0000000011100000#16 = .ok .cls := rfl
theorem test_decode_ret : decodeWord 0b0000000011101110#16 = .ok .ret := rfl
theorem test_decode_jp : decodeWord 0b0001101111000110#16 = .ok (.jp 0xBC6) := rfl
theorem test_decode_call : decodeWord 0b0010101111000110#16 = .ok (.call 0xBC6) := rfl
theorem test_decode_seImm : decodeWord 0b0011101001111110#16 = .ok (.seImm 0xA 0x7E) := rfl
theorem test_decode_sneImm : decodeWord 0b0100101001111110#16 = .ok (.sneImm 0xA 0x7E) := rfl
theorem test_decode_seReg : decodeWord 0b0101101010110000#16 = .ok (.seReg 0xA 0xB) := rfl
theorem test_decode_ldImm : decodeWord 0b0110101001111110#16 = .ok (.ldImm 0xA 0x7E) := rfl
theorem test_decode_addImm : decodeWord 0b0111101001111110#16 = .ok (.addImm 0xA 0x7E) := rfl
theorem test_decode_ldReg : decodeWord 0b1000101010110000#16 = .ok (.ldReg 0xA 0xB) := rfl
theorem test_decode_orReg : decodeWord 0b1000101010110001#16 = .ok (.orReg 0xA 0xB) := rfl
theorem test_decode_andReg : decodeWord 0b1000101010110010#16 = .ok (.andReg 0xA 0xB) := rfl
theorem test_decode_xorReg : decodeWord 0b1000101010110011#16 = .ok (.xorReg 0xA 0xB) := rfl
theorem test_decode_addReg : decodeWord 0b1000101010110100#16 = .ok (.addReg 0xA 0xB) := rfl
theorem test_decode_subReg : decodeWord 0b1000101010110101#16 = .ok (.subReg 0xA 0xB) := rfl
theorem test_decode_shrReg : decodeWord 0b1000101010110110#16 = .ok (.shrReg 0xA 0xB) := rfl
theorem test_decode_subnReg : decodeWord 0b1000101010110111#16 = .ok (.subnReg 0xA 0xB) := rfl
theorem test_decode_shlReg : decodeWord 0b1000101010111110#16 = .ok (.shlReg 0xA 0xB) := rfl
theorem test_decode_sneReg : decodeWord 0b1001101010110000#16 = .ok (.sneReg 0xA 0xB) := rfl
theorem test_decode_ldIndex : decodeWord 0b1010101111000110#16 = .ok (.ldIndex 0xBC6) := rfl
theorem test_decode_jpV0 : decodeWord 0b1011101111000110#16 = .ok (.jpV0 0xBC6) := rfl
theorem test_decode_rnd : decodeWord 0b1100101001111110#16 = .ok (.rnd 0xA 0x7E) := rfl
theorem test_decode_drw : decodeWord 0b1101101010110101#16 = .ok (.drw 0xA 0xB 0x5) := rfl
theorem test_decode_skp : decodeWord 0b1110101010011110#16 = .ok (.skp 0xA) := rfl
theorem test_decode_sknp : decodeWord 0b1110101010100001#16 = .ok (.sknp 0xA) := rfl
theorem test_decode_ldFromDelay : decodeWord 0b1111101000000111#16 = .ok (.ldFromDelay 0xA) := rfl
theorem test_decode_ldKey : decodeWord 0b1111101000001010#16 = .ok (.ldKey 0xA) := rfl
theorem test_decode_ldDelay : decodeWord 0b1111101000010101#16 = .ok (.ldDelay 0xA) := rfl
theorem test_decode_ldSound : decodeWord 0b1111101000011000#16 = .ok (.ldSound 0xA) := rfl
theorem test_decode_addIndex : decodeWord 0b1111101000011110#16 = .ok (.addIndex 0xA) := rfl
theorem test_decode_ldFont : decodeWord 0b1111101000101001#16 = .ok (.ldFont 0xA) := rfl
theorem test_decode_bcd : decodeWord 0b1111101000110011#16 = .ok (.bcd 0xA) := rfl
theorem test_decode_storeRegs : decodeWord 0b1111101001010101#16 = .ok (.storeRegs 0xA) := rfl
theorem test_decode_loadRegs : decodeWord 0b1111101001100101#16 = .ok (.loadRegs 0xA) := rfl

/-! ## Ill-formed words: a word of each class of R96, refused by the check of WellFormed.lean and by the decoder -/

theorem test_ill_formed_family0 :
    [0x0000#16, 0x00E1#16, 0x01E0#16, 0x0FEE#16, 0x0123#16].all fun w =>
      !wordWellFormed w && (match decodeWord w with | .error .unknownSubop => true | _ => false) := by decide
theorem test_ill_formed_family5 :
    [0x5121#16, 0x512F#16].all fun w =>
      !wordWellFormed w && (match decodeWord w with | .error .malformedLowNibble => true | _ => false) := by decide
theorem test_ill_formed_family8 :
    [0x8008#16, 0x8129#16, 0x812A#16, 0x812B#16, 0x812C#16, 0x812D#16, 0x812F#16].all fun w =>
      !wordWellFormed w && (match decodeWord w with | .error .unknownSubop => true | _ => false) := by decide
theorem test_ill_formed_family9 :
    [0x9121#16, 0x912F#16].all fun w =>
      !wordWellFormed w && (match decodeWord w with | .error .malformedLowNibble => true | _ => false) := by decide
theorem test_ill_formed_familyE :
    [0xE19F#16, 0xE1A0#16, 0xE100#16, 0xE19D#16].all fun w =>
      !wordWellFormed w && (match decodeWord w with | .error .unknownSubop => true | _ => false) := by decide
theorem test_ill_formed_familyF :
    [0xF100#16, 0xF108#16, 0xF11F#16, 0xF175#16, 0xF185#16, 0xF1FF#16].all fun w =>
      !wordWellFormed w && (match decodeWord w with | .error .unknownSubop => true | _ => false) := by decide
theorem test_decode_truncated : decode [0x12#8] = .error .truncated := rfl
/-- T-EN-15. -/
theorem test_decode_bytes : decode [0x12#8, 0x34#8, 0x56#8] = .ok (.jp 0x234, [0x56#8]) := rfl

/-! ## One step on a small state -/

/-- T-CT-4: an odd target. -/
theorem test_jp :
    (after State.reset 0x1201).map (fun t => t.pc) = some 0x201 := by decide
/-- T-CT-2. -/
theorem test_jp_self :
    (after State.reset 0x1200).map (fun t => (t.pc, t.reports)) = some (0x200, []) := by decide
/-- T-CT-5. -/
theorem test_call :
    (after (State.reset.setPc 0x204) 0x2210).map (fun t => (t.stack[0], t.stackSize, t.pc)) =
      some (0x206, 1, 0x210) := by decide
/-- S10b. -/
theorem test_call_full :
    (after (State.reset.setStack State.reset.stack 48) 0x2300).map (fun t => (t.reports, t.stackSize, t.pc)) =
      some ([.stackOverflow 0x200 0x2300], 48, 0x200) := by decide
/-- T-CT-8. -/
theorem test_ret :
    (after (State.reset.setStack ((State.reset.stack.set 0 0x206).set 1 0x30A) 2) 0x00EE).map
      (fun t => (t.pc, t.stackSize)) =
      some (0x30A, 1) := by decide
/-- S10c. -/
theorem test_ret_empty :
    (after State.reset 0x00EE).map (fun t => (t.reports, t.stackSize, t.pc)) =
      some ([.stackUnderflow 0x200 0x00EE], 0, 0x200) := by decide
/-- T-CT-9. -/
theorem test_seImm :
    (after (regs [(3, 0x2A)]) 0x332A).map (fun t => t.pc) = some 0x204 := by decide
/-- T-CT-10. -/
theorem test_seImm_no :
    (after (regs [(3, 0x2B)]) 0x332A).map (fun t => t.pc) = some 0x202 := by decide
/-- T-CT-11. -/
theorem test_sneImm_no :
    (after (regs [(3, 0x2A)]) 0x432A).map (fun t => t.pc) = some 0x202 := by decide
/-- T-CT-12. -/
theorem test_sneImm :
    (after State.reset 0x432A).map (fun t => t.pc) = some 0x204 := by decide
/-- T-CT-13. -/
theorem test_seReg :
    (after (regs [(1, 7), (2, 7)]) 0x5120).map (fun t => t.pc) = some 0x204 := by decide
/-- T-CT-14. -/
theorem test_seReg_no :
    (after (regs [(1, 7), (2, 8)]) 0x5120).map (fun t => t.pc) = some 0x202 := by decide
/-- T-CT-16. -/
theorem test_sneReg :
    (after (regs [(1, 7), (2, 8)]) 0x9120).map (fun t => t.pc) = some 0x204 := by decide
/-- T-CT-17. -/
theorem test_sneReg_no :
    (after (regs [(1, 7), (2, 7)]) 0x9120).map (fun t => t.pc) = some 0x202 := by decide
/-- T-CT-20: not reduced. -/
theorem test_jpV0 :
    (after (regs [(0, 0xFF)]) 0xBFFF).map (fun t => t.pc) = some 0x10FE := by decide
/-- T-CT-21. -/
theorem test_jpV0_not_X :
    (after (regs [(0, 2), (0xB, 0x80)]) 0xBB00).map (fun t => t.pc) = some 0xB02 := by decide
/-- T-AL-1. -/
theorem test_ldImm :
    (after State.reset 0x6FFF).map (fun t => (t.reg 0xF, t.pc)) = some (0xFF, 0x202) := by decide
/-- S2. -/
theorem test_addImm :
    (after (regs [(3, 0xF0), (0xF, 0x5A)]) 0x7320).map (fun t => (t.reg 3, t.reg 0xF)) = some (0x10, 0x5A) := by decide
/-- T-AL-4. -/
theorem test_addImm_flag_register :
    (after (regs [(0xF, 0xFF)]) 0x7F02).map (fun t => t.reg 0xF) = some 0x01 := by decide
/-- T-AL-5. -/
theorem test_ldReg :
    (after (regs [(2, 0x33)]) 0x8120).map (fun t => (t.reg 1, t.reg 2)) = some (0x33, 0x33) := by decide
/-- T-AL-6. -/
theorem test_orReg :
    (after (regs [(1, 0xF0), (2, 0x0C), (0xF, 1)]) 0x8121).map (fun t => (t.reg 1, t.reg 0xF)) =
      some (0xFC, 1) := by decide
/-- T-AL-7. -/
theorem test_andReg :
    (after (regs [(1, 0xFC), (2, 0x3C), (0xF, 1)]) 0x8122).map (fun t => (t.reg 1, t.reg 0xF)) =
      some (0x3C, 1) := by decide
/-- T-AL-8. -/
theorem test_xorReg :
    (after (regs [(1, 0xFF), (2, 0x0F), (0xF, 1)]) 0x8123).map (fun t => (t.reg 1, t.reg 0xF)) =
      some (0xF0, 1) := by decide
/-- T-AL-10. -/
theorem test_addReg :
    (after (regs [(1, 0xFF), (2, 0x01)]) 0x8124).map (fun t => (t.reg 1, t.reg 0xF)) = some (0x00, 1) := by decide
/-- T-AL-16. -/
theorem test_addReg_into_flag :
    (after (regs [(0xF, 0x01), (2, 0x02)]) 0x8F24).map (fun t => t.reg 0xF) = some 0 := by decide
/-- T-AL-18. -/
theorem test_subReg :
    (after (regs [(1, 0x05), (2, 0x07)]) 0x8125).map (fun t => (t.reg 1, t.reg 0xF)) = some (0xFE, 0) := by decide
/-- T-AL-20. -/
theorem test_subReg_unsigned :
    (after (regs [(1, 0x80), (2, 0x7F)]) 0x8125).map (fun t => (t.reg 1, t.reg 0xF)) = some (0x01, 1) := by decide
/-- S4. -/
theorem test_shrReg :
    (after (regs [(1, 0xAA), (2, 0x05)]) 0x8126).map (fun t => (t.reg 1, t.reg 0xF, t.reg 2)) =
      some (0x02, 1, 0x05) := by decide
/-- T-AL-28. -/
theorem test_shrReg_flag_source :
    (after (regs [(0xF, 0x01)]) 0x81F6).map (fun t => (t.reg 1, t.reg 0xF)) = some (0x00, 1) := by decide
/-- T-AL-29. -/
theorem test_subnReg :
    (after (regs [(1, 0x05), (2, 0x07)]) 0x8127).map (fun t => (t.reg 1, t.reg 0xF)) = some (0x02, 1) := by decide
/-- T-AL-32. -/
theorem test_subnReg_borrow :
    (after (regs [(1, 0xFF)]) 0x8127).map (fun t => (t.reg 1, t.reg 0xF)) = some (0x01, 0) := by decide
/-- T-AL-33. -/
theorem test_shlReg :
    (after (regs [(2, 0x81)]) 0x812E).map (fun t => (t.reg 1, t.reg 0xF)) = some (0x02, 1) := by decide
/-- T-AL-35. -/
theorem test_shlReg_no_carry :
    (after (regs [(2, 0x7F)]) 0x812E).map (fun t => (t.reg 1, t.reg 0xF)) = some (0xFE, 0) := by decide
/-- T-AL-40, the fields the spec fixes. -/
theorem test_rnd_counts_the_draw :
    (after State.reset 0xC3FF).map (fun t => (t.draws, t.pc)) = some (1, 0x202) := by decide
/-- T-AL-39, for every draw. -/
theorem test_rnd_mask_zero :
    ∃ t, exec (.rnd 3 0x00#8) State.reset = .next t ∧ t.reg 3 = 0 := ⟨_, rfl, by simp⟩
/-- T-IM-1. -/
theorem test_ldIndex :
    (after State.reset 0xAFFF).map (fun t => t.index) = some 0x0FFF := by decide
/-- T-IM-4. -/
theorem test_addIndex :
    (after ((regs [(1, 1)]).setIndex 0xFFFF) 0xF11E).map (fun t => (t.index, t.reg 0xF)) = some (0, 0) := by decide
/-- T-IM-3. -/
theorem test_addIndex_no_flag :
    (after ((regs [(1, 1)]).setIndex 0x0FFF) 0xF11E).map (fun t => (t.index, t.reg 0xF)) = some (0x1000, 0) := by decide
/-- T-IM-7. -/
theorem test_ldFont :
    (after (regs [(4, 0xFF)]) 0xF429).map (fun t => t.index) = some 0x04FB := by decide
/-- T-IM-10. -/
theorem test_bcd :
    (after ((regs [(0, 255)]).setIndex 0xFFD) 0xF033).map (fun t => (t.readBytes 0xFFD 3, t.index)) =
      some (some [2, 5, 5], 0xFFD) := by decide
/-- T-IM-11. -/
theorem test_bcd_beyond :
    (after (store ((regs [(0, 255)]).setIndex 0xFFE) 0xFFE [0xAA, 0xBB]) 0xF033).map
      (fun t => (t.reports, t.readBytes 0xFFE 2, t.pc)) =
      some ([.memBounds 0x200 0xF033 0xFFE 3], some [0xAA, 0xBB], 0x202) := by decide
/-- T-IM-12. -/
theorem test_storeRegs :
    (after ((regs [(0, 1), (1, 2), (2, 3)]).setIndex 0x400) 0xF255).map (fun t => (t.readBytes 0x400 4, t.index)) =
      some (some [1, 2, 3, 0], 0x403) := by decide
/-- T-IM-15. -/
theorem test_storeRegs_beyond :
    (after (State.reset.setIndex 0xFF1) 0xFF55).map (fun t => (t.reports, t.index, t.pc)) =
      some ([.memBounds 0x200 0xFF55 0xFF1 16], 0xFF1, 0x202) := by decide
/-- T-IM-17. -/
theorem test_loadRegs :
    (after (store ((regs [(3, 0x99)]).setIndex 0x300) 0x300 [2, 5, 4]) 0xF265).map
      (fun t => (t.regBlock 3, t.index)) =
      some ([2, 5, 4, 0x99], 0x303) := by decide
/-- T-IM-19. -/
theorem test_loadRegs_beyond :
    (after ((regs [(0, 0xEE)]).setIndex 0xFF1) 0xFF65).map (fun t => (t.reports, t.reg 0, t.pc)) =
      some ([.memBounds 0x200 0xFF65 0xFF1 16], 0xEE, 0x202) := by decide
/-- R201. -/
theorem test_cls :
    (after (State.reset.setDisplay (Display.setByte Display.blank 31 7 0xFF)) 0x00E0).map
      (fun t => (t.display == Display.blank, t.fbUpdates)) =
      some (true, 1) := by decide
/-- S6. -/
theorem test_drw :
    (after (store ((regs [(0, 4), (1, 4)]).setIndex 0x300) 0x300 [0xFF, 0xFF]) 0xD012).map
      (fun t => (t.display.byte 4 0, t.display.byte 4 1, t.display.byte 5 0, t.display.byte 5 1, t.reg 0xF)) =
      some (0x0F, 0xF0, 0x0F, 0xF0, 0) := by decide
/-- P3, with a pixel lit under its first row: the last row alone sets VF (R202). -/
theorem test_drw_wrap_and_last_row :
    (after (store (((regs [(0, 0x3C), (1, 0x1F)]).setIndex 0x300).setDisplay
      (Display.setByte Display.blank 31 0 0x80)) 0x300 [0xFF, 0x81]) 0xD012).map
      (fun t => (t.display.byte 31 7, t.display.byte 31 0, t.display.byte 0 7, t.display.byte 0 0,
        t.reg 0xF)) = some (0x0F, 0x70, 0x08, 0x10, 0) := by decide
/-- R224, example. -/
theorem test_skp :
    (after ((regs [(2, 5)]).setKeys (State.reset.keys.set 5 true)) 0xE29E).map (fun t => t.pc) = some 0x204 := by decide
/-- R226. -/
theorem test_skp_range :
    (after (regs [(2, 0x10)]) 0xE29E).map (fun t => (t.reports, t.pc)) =
      some ([.keyIndexRange 0x200 0xE29E 0x10], 0x202) := by decide
/-- R225, example. -/
theorem test_sknp :
    (after ((regs [(2, 5)]).setKeys (State.reset.keys.set 5 true)) 0xE2A1).map (fun t => t.pc) = some 0x202 := by decide
/-- R225: no key is pressed after initialize. -/
theorem test_sknp_up :
    (after (regs [(2, 5)]) 0xE2A1).map (fun t => t.pc) = some 0x204 := by decide
/-- R220, example. -/
theorem test_ldFromDelay :
    (after (State.reset.setDelay 0x3C) 0xF507).map (fun t => (t.reg 5, t.delayTimer)) = some (0x3C, 0x3C) := by decide
/-- R229. -/
theorem test_ldKey :
    (after (State.reset.setKeyWake true) 0xF30A).map (fun t => (t.wait, t.keyWake, t.pc)) =
      some (some 3, false, 0x200) := by decide
/-- R221, example. -/
theorem test_ldDelay :
    (after (regs [(0, 0x0A)]) 0xF015).map (fun t => (t.delayTimer, t.soundTimer)) = some (0x0A, 0) := by decide
/-- R222, example. -/
theorem test_ldSound :
    (after (regs [(1, 0x1E)]) 0xF118).map (fun t => (t.soundTimer, t.delayTimer)) = some (0x1E, 0) := by decide
/-- T-FL-1. -/
theorem test_unknown_subop :
    (after (regs [(1, 0x11), (2, 0x22), (0xF, 0x33)]) 0x8128).map (fun t => (t.reports, t.reg 1, t.reg 0xF, t.pc)) =
      some ([.unknownSubop 0x200 0x8128], 0x11, 0x33, 0x202) := by decide
/-- T-FL-4. -/
theorem test_malformed :
    (after (regs [(1, 7), (2, 7)]) 0x5121).map (fun t => (t.reports, t.pc)) =
      some ([.malformedLowNibble 0x200 0x5121], 0x202) := by decide
/-- T-FL-8. -/
theorem test_pc_bounds :
    (result (step ((runningWith []).setPc 0xFFF))).map (fun t => (t.reports, t.execHalted, t.pc, t.running)) =
      some ([.pcBounds 0xFFF], true, 0xFFF, true) := by decide
/-- T-EN-16. -/
theorem test_fetch_big_endian_odd :
    (result (step (store ((runningWith []).setPc 0x201) 0x201 [0x60, 0x07]))).map (fun t => (t.reg 0, t.pc)) =
      some (7, 0x203) := by decide
/-- R223: at 0 a timer stays at 0. -/
theorem test_tick :
    (result (step ((runningWith [.tick]).setDelay 1))).map (fun t => (t.delayTimer, t.soundTimer)) =
      some (0, 0) := by decide
/-- R227, example. -/
theorem test_wake :
    (result (step ((((runningWith []).setWait (some 3)).setKeyWake true).setLastEvent ⟨true, .pressed, 7⟩))).map
      (fun t => (t.reg 3, t.wait, t.pc)) = some (7, none, 0x202) := by decide
/-- T-RS-2. -/
theorem test_load :
    (result (step (State.reset.setAgenda [.load [0x60, 0x05, 0x12, 0x02]]))).map
      (fun t => (t.readBytes 0x1FF 6, t.loadResult)) =
      some (some [0, 0x60, 0x05, 0x12, 0x02, 0], some .success) := by decide
/-- D28, U21: no defined meaning. -/
theorem test_start_refused_while_running :
    step (runningWith [.start]) = .refused .startWhileNotStopped := rfl
theorem test_canonical_memory :
    (store (store State.reset 0x300 [1, 2]) 0x300 [0, 0]).mem = [] ∧
      (store (store State.reset 0x301 [2]) 0x300 [1]).mem = [(0x300, 1), (0x301, 2)] := by decide

/-! ## Witnesses: the hypotheses of each statement of Obligations.lean that has any, met together

`placed w` is a Running machine about to run the word `w` at 0x200. -/

/-- The machine about to run `w` at 0x200. -/
def placed (w : Word) : State := State.reset.placeWord w

/-- It is about to run it. -/
theorem test_placed (w : Word) : (placed w).AboutToRun w [] := placeWord_aboutToRun _ _

/-- The same with turns after the executor's. -/
theorem test_placed_then (w : Word) (rest : List Turn) :
    ((placed w).setAgenda (.executor :: rest)).AboutToRun w rest := by
  obtain ⟨hr, -, hp, h1, h2⟩ := test_placed w
  exact ⟨hr, .inl rfl, hp, h1, h2⟩

/-- A Stopped machine with one turn to come. -/
def stoppedWith (turn : Turn) : State := State.reset.setAgenda [turn]

/-- The reset state with an opcode's registers set and `index` at an address. -/
def atIndex (a : Word) : State := State.reset.setIndex a

/-- A machine blocked in an `FX0A` into V3 that stands at 0x200, with these turns to come. -/
def waiting (turns : List Turn) : State := ((placed 0xF30A#16).setWait (some 3)).setAgenda turns

/-- The last key event of a test. -/
def eventOf (kind : KeyKind) : LastEvent := ⟨true, kind, 7⟩

theorem test_witness_EncodeOfDecodedWord : decodeWord 0xFA65#16 = .ok (.loadRegs 0xA) := rfl

theorem test_witness_InvalidWord_family0 : (placed 0x00EF#16).AboutToRun 0x00EF#16 [] ∧
    (0x00EF#16).toNat / 4096 = 0 ∧ 0x00EF#16 ≠ 0x00E0#16 ∧ 0x00EF#16 ≠ 0x00EE#16 :=
  ⟨test_placed _, by decide, by decide, by decide⟩
theorem test_witness_InvalidWord_family8 : (placed 0x812F#16).AboutToRun 0x812F#16 [] ∧
    (0x812F#16).toNat / 4096 = 8 ∧ (0x812F#16).toNat % 16 ∈ [8, 9, 0xA, 0xB, 0xC, 0xD, 0xF] :=
  ⟨test_placed _, by decide, by decide⟩
theorem test_witness_InvalidWord_familyE : (placed 0xE1A0#16).AboutToRun 0xE1A0#16 [] ∧
    (0xE1A0#16).toNat / 4096 = 0xE ∧ (0xE1A0#16).toNat % 256 ∉ [0x9E, 0xA1] :=
  ⟨test_placed _, by decide, by decide⟩
theorem test_witness_InvalidWord_familyF : (placed 0xF166#16).AboutToRun 0xF166#16 [] ∧
    (0xF166#16).toNat / 4096 = 0xF ∧
    (0xF166#16).toNat % 256 ∉ [0x07, 0x0A, 0x15, 0x18, 0x1E, 0x29, 0x33, 0x55, 0x65] :=
  ⟨test_placed _, by decide, by decide⟩
theorem test_witness_InvalidWord_family5 : (placed 0x512F#16).AboutToRun 0x512F#16 [] ∧
    (0x512F#16).toNat / 4096 = 5 ∧ (0x512F#16).toNat % 16 ≠ 0 := ⟨test_placed _, by decide, by decide⟩
theorem test_witness_InvalidWord_family9 : (placed 0x9121#16).AboutToRun 0x9121#16 [] ∧
    (0x9121#16).toNat / 4096 = 9 ∧ (0x9121#16).toNat % 16 ≠ 0 := ⟨test_placed _, by decide, by decide⟩

/-- At the last address of a fetch, by the default turn. -/
theorem test_witness_StepRunsTheDecodedInstruction :
    let s := State.placeWord (State.reset.setPc 0xFFE) 0x6A7F#16
    s.ReadyToFetch ∧ s.ExecutorNext [] ∧ s.pc.toNat = 4094 ∧ s.readByte s.pc.toNat = some 0x6A#8 ∧
      s.readByte (s.pc.toNat + 1) = some 0x7F#8 ∧
      decode [0x6A#8, 0x7F#8, 0x00#8] = .ok (.ldImm 0xA 0x7F, [0x00#8]) :=
  ⟨⟨rfl, rfl, rfl⟩, .inr ⟨rfl, rfl, rfl⟩, by decide, by decide, by decide, rfl⟩
/-- By a turn of the agenda. -/
theorem test_witness_StepRunsTheDecodedInstruction_turn :
    ((placed 0x6A7F#16).setAgenda [.executor, .tick]).ExecutorNext [.tick] := .inl rfl

theorem test_witness_PlacedWordRunsNext : decodeTableWord 16 0xD12F = some (.drw 1 2 0xF) := rfl

theorem test_witness_FetchBeyondMemory : ((placed 0#16).setPc 0xFFF).ReadyToFetch ∧
    ((placed 0#16).setPc 0xFFF).ExecutorNext [] ∧ 4094 < ((placed 0#16).setPc 0xFFF).pc.toNat :=
  ⟨⟨rfl, rfl, rfl⟩, .inr ⟨rfl, rfl, rfl⟩, by decide⟩
/-- The halted executor, and a step of another agent beside it. -/
theorem test_witness_FetchBeyondMemory_halted : ∃ s : State, s.execHalted = true ∧ s.ExecutorNext [.tick] ∧
    ∃ t, step (s.setAgenda [.tick]) = .next t :=
  ⟨((placed 0#16).raise (.pcBounds 0xFFF)).setAgenda [.executor, .tick], by decide, .inl rfl, _, rfl⟩

/-- The 48th call and the 49th. -/
theorem test_witness_CallPushesTheReturnAddress :
    (State.reset.setStack State.reset.stack 47).stackSize.val < 48 ∧
      (State.reset.setStack State.reset.stack 48).stackSize.val = 48 := by decide
theorem test_witness_ReturnPopsIntoPc :
    (State.reset.setStack State.reset.stack 48).stackSize.val = (47 : Fin 48).val + 1 ∧
      (State.reset.setStack State.reset.stack 1).stackSize.val = (0 : Fin 48).val + 1 ∧
      State.reset.stackSize.val = 0 := by decide
theorem test_witness_CallThenReturnComesBack :
    (State.reset.setStack State.reset.stack 47).stackSize.val < 48 ∧
      (46 : Fin 48).val < (State.reset.setStack State.reset.stack 47).stackSize.val := by decide
theorem test_witness_DecoderAcceptsExactlyTheTable :
    wordWellFormed 0x00E0#16 = true ∧ wordWellFormed 0x01E0#16 = false ∧ decodeWord 0xFF65#16 = .ok (.loadRegs 0xF) := by decide
theorem test_witness_SkipsCompareForEquality : 1#4 ≠ 0#4 ∧ 0xF#4 ≠ 0#4 := by decide
theorem test_witness_RandomByteIsMasked : (0x7F#8).getLsbD 7 = false := by decide

/-- The six writers of a flag. -/
theorem test_witness_FlagRegister_writers : ∃ s t1 t2 t3 t4 t5 t6 : State,
    exec (.addReg 1 2) s = .next t1 ∧ exec (.subReg 1 2) s = .next t2 ∧ exec (.shrReg 1 2) s = .next t3 ∧
      exec (.subnReg 1 2) s = .next t4 ∧ exec (.shlReg 1 2) s = .next t5 ∧
      exec (.drw 1 2 0xF#4) s = .next t6 ∧ 0xF#4 ≠ 0#4 ∧ s.index.toNat + (0xF#4).toNat ≤ 4096 :=
  ⟨atIndex 0xFF1, _, _, _, _, _, _, rfl, rfl, rfl, rfl, rfl, rfl, by decide, by decide⟩
/-- An instruction that changes VF. -/
theorem test_witness_FlagRegister_changed : ∃ t, exec (.ldImm 0xF#4 0x2A#8) State.reset = .next t ∧
    t.reg 0xF#4 ≠ State.reset.reg 0xF#4 := ⟨_, rfl, by decide⟩

theorem test_witness_BcdStoresTheDecimalDigits :
    (atIndex 4093).index.toNat + 3 ≤ 4096 ∧ (atIndex 4094).index.toNat + 3 > 4096 := by decide
theorem test_witness_RegisterBlocks :
    (atIndex 4080).index.toNat + ((0xF#4).toNat + 1) ≤ 4096 ∧ (0xF#4).toNat ≤ (0xF#4).toNat ∧
      (atIndex 4081).index.toNat + ((0xF#4).toNat + 1) > 4096 ∧
      (atIndex 4095).index.toNat + ((0#4).toNat + 1) ≤ 4096 ∧ (0#4).toNat < (1#4).toNat := by decide
theorem test_witness_DataAccess_beyond : ∃ t, exec (.bcd 1) (atIndex 4094) = .next t ∧
    1 ≤ 3 ∧ (atIndex 4094).index.toNat + 3 > 4096 := ⟨_, rfl, by decide, by decide⟩
/-- A draw of no rows is never checked. -/
theorem test_witness_DataAccess_inside : ∃ t, exec (.drw 1 2 0) (atIndex 0xFFFF) = .next t ∧
    ¬(1 ≤ (0#4).toNat ∧ (atIndex 0xFFFF).index.toNat + (0#4).toNat > 4096) := ⟨_, rfl, by decide⟩

/-- The block ends with memory, and its first byte overwrites the second byte of the `FX55` itself. -/
theorem test_witness_StoredCodeIsFetchedNext :
    let s := State.placeWord (((regs [(1, 0x6A), (2, 0x7F)]).setPc 4092).setIndex 4093) 0xF255#16
    s.AboutToRun (encode (.storeRegs 2#4)) [] ∧ s.index.toNat + ((2#4).toNat + 1) ≤ 4096 ∧
      s.index.toNat + (1#4).toNat = s.pc.toNat + 2 ∧ (1#4).toNat + 1 ≤ (2#4).toNat ∧
      decode [s.reg 1#4, s.reg (1#4 + 1)] = .ok (.ldImm 0xA 0x7F, []) ∧
      ∃ t, step s = .next t ∧ t.ExecutorNext [] :=
  ⟨placeWord_aboutToRun _ _, by decide, by decide, by decide, rfl, _, rfl, .inr ⟨rfl, rfl, rfl⟩⟩

theorem test_witness_BlitRow : 0 < 64 ∧ 63 < 64 := by decide
theorem test_witness_DrawInvertsEverySpritePixel :
    1 ≤ (0xF#4).toNat ∧ (atIndex 4081).index.toNat + (0xF#4).toNat ≤ 4096 ∧ (0#4).toNat = 0 ∧
      (atIndex 4082).index.toNat + (0xF#4).toNat > 4096 := by decide
theorem test_witness_DrawTwiceRestoresTheDisplay :
    1 ≤ (5#4).toNat ∧ (atIndex 0).index.toNat + (5#4).toNat ≤ 4096 ∧
    (atIndex 0).readByte ((atIndex 0).index.toNat + ((5#4).toNat - 1)) = some (State.reset.font[4]) := by decide

theorem test_witness_TicksCountBothTimersDown :
    (runningWith [.tick, .tick]).running = true ∧ (runningWith [.tick, .tick]).tickActive = true ∧
      (runningWith [.tick, .tick]).agenda = List.replicate 2 .tick ++ [] := ⟨rfl, rfl, rfl⟩
theorem test_witness_KeySkipsTestTheKeyLevel : ((regs [(2, 15)]).reg 2).toNat = (15 : Fin 16).val ∧
    ((regs [(2, 16)]).reg 2).toNat > 15 := by decide
theorem test_witness_KeyEvent : (stoppedWith (.key .pressed 15#8)).agenda = [.key .pressed 15#8] ∧
    (15#8).toNat ≤ 15 ∧ (stoppedWith (.key .released 16#8)).agenda = [.key .released 16#8] ∧ 15 < (16#8).toNat :=
  ⟨rfl, by decide, rfl, by decide⟩
/-- The blocked executor comes next. -/
theorem test_witness_KeyWaitIssue : ∃ t, exec (.ldKey 3) (placed 0xF30A#16) = .next t ∧ t.wait = some 3 ∧
    t.keyWake = false ∧ t.ExecutorNext [] := ⟨_, rfl, rfl, rfl, .inr ⟨rfl, rfl, rfl⟩⟩
theorem test_witness_KeyWaitWake :
    let s := (waiting [.executor]).setKeyWake true
    s.wait = some 3 ∧ s.keyWake = true ∧ s.executorActive = true ∧ s.execHalted = false ∧ s.ExecutorNext [] ∧
      (s.setLastEvent (eventOf .pressed)).lastEvent.kind = .pressed ∧
      (s.setLastEvent (eventOf .released)).lastEvent.kind = .released :=
  ⟨rfl, rfl, rfl, rfl, .inl rfl, rfl, rfl⟩
theorem test_witness_StopReleasesTheKeyWait :
    let s := (waiting [.executorObservesStop]).setRunning false
    s.wait = some 3 ∧ s.running = false ∧ s.agenda = [.executorObservesStop] := ⟨rfl, rfl, rfl⟩
theorem test_witness_KeyWaitEndsWithThePressedKey : (15#8).toNat ≤ 15 ∧
    ((placed (encode (.ldKey 3))).setAgenda [.executor, .key .pressed 15#8, .executor]).AboutToRun
      (encode (.ldKey 3)) [.key .pressed 15#8, .executor] := ⟨by decide, test_placed_then _ _⟩

theorem test_witness_FaultsArePrecise : ∃ t, exec .ret State.reset = .next t ∧ t.reports ≠ State.reset.reports :=
  ⟨_, rfl, by decide⟩
theorem test_witness_FaultsArePrecise_pc : ∃ t, exec (.skp 1) (regs [(1, 16)]) = .next t ∧
    t.reports ≠ (regs [(1, 16)]).reports ∧ ¬((.skp 1 : Instr) = .ret ∨ ∃ nnn, (.skp 1 : Instr) = .call nnn) :=
  ⟨_, rfl, by decide, by simp⟩
/-- A step that reports, of a machine whose mark is set. -/
theorem test_witness_Reports : ∃ t : State, ((placed 0#16).report (.unknownSubop 0 0)).faultMark = true ∧
    step ((placed 0#16).report (.unknownSubop 0 0)) = .next t ∧
    ∃ r, t.reports = ((placed 0#16).report (.unknownSubop 0 0)).reports ++ [r] := ⟨_, rfl, rfl, _, rfl⟩

/-- Each part written by an instruction. -/
theorem test_witness_EachPart_register : ∃ t u w, exec (.ldImm 0xF 7) State.reset = .next t ∧
    t.reg 0xF ≠ State.reset.reg 0xF ∧ exec (.subReg 1 2) State.reset = .next u ∧
    u.reg 0xF ≠ State.reset.reg 0xF ∧ exec (.loadRegs 3) State.reset = .next w ∧ w.reg 3 ≠ State.reset.reg 3 :=
  ⟨_, _, _, rfl, by decide, rfl, by decide, rfl, by decide⟩
theorem test_witness_EachPart_pc : ∃ t u, exec (.jp 0x300) State.reset = .next t ∧
    t.pc ≠ State.reset.pc + 2 ∧ exec (.ldKey 1) State.reset = .next u ∧ u.pc ≠ State.reset.pc + 2 :=
  ⟨_, _, rfl, by decide, rfl, by decide⟩
theorem test_witness_EachPart_reports : ∃ t, exec .ret State.reset = .next t ∧
    t.reports ≠ State.reset.reports ∧ t.faultMark ≠ State.reset.faultMark := ⟨_, rfl, by decide, by decide⟩
theorem test_witness_EachPart_display : ∃ t, exec .cls State.reset = .next t ∧
    t.fbUpdates ≠ State.reset.fbUpdates :=
  ⟨_, rfl, by decide⟩
theorem test_witness_EachPart_stack : ∃ t, exec (.call 0x300) State.reset = .next t ∧
    t.stackSize ≠ State.reset.stackSize := ⟨_, rfl, by decide⟩
theorem test_witness_EachPart_memory : ∃ t, exec (.bcd 1) ((regs [(1, 7)]).setIndex 0x300) = .next t ∧
    t.mem ≠ ((regs [(1, 7)]).setIndex 0x300).mem := ⟨_, rfl, by decide⟩
theorem test_witness_EachPart_index : ∃ t, exec (.ldIndex 0x300) State.reset = .next t ∧
    t.index ≠ State.reset.index := ⟨_, rfl, by decide⟩
theorem test_witness_EachPart_timers : ∃ t u, exec (.ldDelay 1) (regs [(1, 7)]) = .next t ∧
    t.delayTimer ≠ (regs [(1, 7)]).delayTimer ∧ exec (.ldSound 1) (regs [(1, 7)]) = .next u ∧
    u.soundTimer ≠ (regs [(1, 7)]).soundTimer := ⟨_, _, rfl, by decide, rfl, by decide⟩
theorem test_witness_EachPart_keyWait : ∃ t u, exec (.ldKey 1) State.reset = .next t ∧
    t.wait ≠ State.reset.wait ∧ exec (.rnd 1 0) State.reset = .next u ∧ u.draws ≠ State.reset.draws :=
  ⟨_, _, rfl, by decide, rfl, by decide⟩

theorem test_witness_OtherAgents : ∃ t u w : State, step (runningWith [.tick]) = .next t ∧
    (runningWith [.tick]).agenda = [.tick] ∧ step (runningWith [.tickObservesStop]) = .next u ∧
    (runningWith [.tickObservesStop]).agenda = [.tickObservesStop] ∧
    step (runningWith [.key .released 3]) = .next w ∧
    (runningWith [.key .released 3]).agenda = [.key .released 3] :=
  ⟨_, _, _, rfl, rfl, rfl, rfl, rfl, rfl⟩
theorem test_witness_DelayTimerRises : ∃ t : State,
    step (State.placeWord (regs [(1, 7)]) 0xF115#16) = .next t ∧
      (State.placeWord (regs [(1, 7)]) 0xF115#16).delayTimer.toNat < t.delayTimer.toNat := ⟨_, rfl, by decide⟩

theorem test_witness_LoadCopiesTheImage (b : Byte) :
    let s := stoppedWith (.load (List.replicate 3584 b))
    s.stopped = true ∧ s.agenda = [.load (List.replicate 3584 b)] ∧ (List.replicate 3584 b).length ≤ 3584 ∧
      (stoppedWith (.load (List.replicate 3585 b))).stopped = true ∧ 3584 < (List.replicate 3585 b).length :=
  ⟨rfl, rfl, List.length_replicate.le, rfl, Nat.lt_of_lt_of_eq (by decide) List.length_replicate.symm⟩
/-- Halted and stopped: the state that only an initialize brings back. -/
theorem test_witness_Initialize :
    let s := (((runningWith [.initMachine]).raise (.pcBounds 0xFFF)).setRunning false).setTickActive false
    s.stopped = true ∧ s.agenda = [.initMachine] := by decide
theorem test_witness_StartAndStop : (stoppedWith .start).stopped = true ∧ (stoppedWith .start).agenda = [.start] ∧
    (runningWith [.stop]).running = true ∧ (runningWith [.stop]).agenda = [.stop] := ⟨rfl, rfl, rfl, rfl⟩
/-- A stop while a key wait is pending, and the turns of a Stopped machine. -/
theorem test_witness_AgentsCeaseAfterStop :
    ((waiting []).setRunning false).running = false ∧ ((waiting []).setRunning false).agenda = [] ∧
      ((waiting []).setRunning false).executorActive = true ∧
      ∀ turn ∈ [Turn.executor, .executorObservesStop, .tick, .tickObservesStop],
        (stoppedWith turn).stopped = true ∧ (stoppedWith turn).wait = none ∧
          (stoppedWith turn).agenda = [turn] := by
  decide
/-- The same of an executor that has ceased, with a wait that nothing releases. -/
theorem test_witness_AgentsCeaseAfterStop_ceased :
    (State.reset.setWait (some 1)).running = false ∧ (State.reset.setWait (some 1)).agenda = [] ∧
      (State.reset.setWait (some 1)).executorActive = false := ⟨rfl, rfl, rfl⟩
theorem test_witness_AtMostOneTickAfterStop :
    let s := (runningWith [.tick, .tick]).setRunning false
    s.running = false ∧ s.agenda = [.tick, .tick] ∧ s.tickActive = true ∧
      (s.setTickActive false).tickActive = false := ⟨rfl, rfl, rfl, rfl⟩

/-- The invariant of a machine blocked in a key wait, and a step of it. -/
theorem test_witness_StepKeepsTheInvariant : State.Inv (waiting [.tick]) ∧
    ∃ t : State, step (waiting [.tick]) = .next t := by
  refine ⟨⟨by decide, by decide, fun k hk => absurd hk (Nat.not_lt_zero _), by decide, fun x hx => ?_, by decide,
    by decide, fun r hr => nomatch hr⟩, _, rfl⟩
  obtain rfl : 3#4 = x := by injection hx
  decide


end Sys2Proof.Machine.Tests
end

section
/-! Completion (00_scope.md R9, 60_exceptions.md R252): exec answers a next state, whatever the instruction, its
operands and the state. -/

namespace Sys2Proof.Machine

/-- Every arm of exec ends in a next state. The named arms are those with a fault of the spec, which is a next state
as well: the bounds check of R66 keeps each memory primitive in its domain. Every other arm has one equation, to a
next state. -/
theorem exec_answers (i : Instr) (s : State) : ∃ t, exec i s = .next t := by
  cases i with
  | ret => obtain ⟨-, h⟩ | ⟨_, -, h⟩ := exec_ret_cases s <;> exact ⟨_, h⟩
  | call nnn => obtain ⟨-, h⟩ | ⟨_, h⟩ := exec_call_cases s nnn <;> exact ⟨_, h⟩
  | skp x => obtain ⟨-, h⟩ | ⟨_, -, h⟩ := exec_skp_cases s x <;> exact ⟨_, h⟩
  | sknp x => obtain ⟨-, h⟩ | ⟨_, -, h⟩ := exec_sknp_cases s x <;> exact ⟨_, h⟩
  | bcd x => obtain ⟨-, h⟩ | ⟨-, _, h, -⟩ := exec_bcd_cases s x <;> exact ⟨_, h⟩
  | storeRegs x => obtain ⟨-, h⟩ | ⟨-, _, h, -⟩ := exec_storeRegs_cases s x <;> exact ⟨_, h⟩
  | loadRegs x => obtain ⟨-, h⟩ | ⟨-, _, h, -⟩ := exec_loadRegs_cases s x <;> exact ⟨_, h⟩
  | drw x y n => obtain ⟨-, -, h⟩ | ⟨-, h⟩ | ⟨-, -, _, -, -, h⟩ := exec_drw_cases s x y n <;> exact ⟨_, h⟩
  | _ => simp

/-- Settles O45: the case split over the arms of exec. -/
theorem everyInstructionAnswersANextState : Obligations.EveryInstructionAnswersANextState :=
  exec_answers

end Sys2Proof.Machine
end

section
/-! What one instruction can do (10_state.md R36, 60_exceptions.md R252): every state exec answers, by the kind of its
effect. Which values it writes is said by the lemmas exec_* of Laws/Exec.lean; here it is which parts can change, and
the bounds the invariant needs. The statements on the writers of each part, on VF and on the invariant are read off
this list. -/

namespace Sys2Proof.Machine

/-! ## Kinds of instructions -/

/-- The instructions that write one register and no flag, with their destination (R20). -/
def WritesResult (i : Instr) (x : Nibble) : Prop :=
  (∃ nn, i = .ldImm x nn ∨ i = .addImm x nn ∨ i = .rnd x nn) ∨
  (∃ y, i = .ldReg x y ∨ i = .orReg x y ∨ i = .andReg x y ∨ i = .xorReg x y) ∨ i = .ldFromDelay x

/-- The instructions that write a register and then the flag, with their destination (R150). -/
def WritesFlag (i : Instr) (x : Nibble) : Prop :=
  ∃ y, i = .addReg x y ∨ i = .subReg x y ∨ i = .shrReg x y ∨ i = .subnReg x y ∨ i = .shlReg x y

/-- The instructions whose rule for `pc` is not "+2" (R23). -/
def TransfersControl (i : Instr) : Prop :=
  i = .ret ∨ (∃ nnn, i = .jp nnn ∨ i = .call nnn ∨ i = .jpV0 nnn) ∨
  (∃ x nn, i = .seImm x nn ∨ i = .sneImm x nn) ∨ (∃ x y, i = .seReg x y ∨ i = .sneReg x y) ∨
  ∃ x, i = .skp x ∨ i = .sknp x ∨ i = .ldKey x

/-- The instructions that can report a fault (R251). -/
def CanReport (i : Instr) : Prop :=
  i = .ret ∨ (∃ nnn, i = .call nnn) ∨ (∃ x y n, i = .drw x y n) ∨
  ∃ x, i = .bcd x ∨ i = .storeRegs x ∨ i = .loadRegs x ∨ i = .skp x ∨ i = .sknp x

/-- The instructions that set `index` and do nothing else (R22). -/
def SetsIndex (i : Instr) : Prop := (∃ nnn, i = .ldIndex nnn) ∨ ∃ x, i = .addIndex x ∨ i = .ldFont x

/-! ## The effects -/

/-- The states an instruction can answer from `s`, one constructor for each kind of effect. `exec_effect` ties it to
`exec`. -/
inductive Effect (s : State) : Instr → State → Prop where
  /-- a recoverable fault (R252) -/
  | fault {i : Instr} (r : Report) (hi : CanReport i) (hf : r.fatal = false)
      (hpc : r.pcAfter s.pc = s.pc + 2 ∨ TransfersControl i) : Effect s i (s.raise r)
  /-- `pc` alone: a jump, a skip, or a sprite of no rows -/
  | move {i : Instr} (target : Word) (hi : target = s.pc + 2 ∨ TransfersControl i)
      (hb : s.pc.toNat ≤ 4094 → target.toNat ≤ 4350) : Effect s i (s.setPc target)
  | call (nnn : Addr) (h : s.stackSize.val < 48) :
      Effect s (.call nnn) ((s.setStack (s.stack.set s.stackSize.val (s.pc + 2) h)
        ⟨s.stackSize.val + 1, Nat.succ_lt_succ h⟩).setPc (zext16 nnn))
  | ret (k : Fin 48) (hk : s.stackSize.val = k.val + 1) :
      Effect s .ret ((s.setStack s.stack k.castSucc).setPc s.stack[k])
  | result {i : Instr} (x : Nibble) (b : Byte) (hi : WritesResult i x) : Effect s i (s.finish x b)
  | random (x : Nibble) (nn b : Byte) : Effect s (.rnd x nn) (s.countDraw.finish x b)
  | flagged {i : Instr} (x : Nibble) (b flag : Byte) (hi : WritesFlag i x) : Effect s i (s.finishWithFlag x b flag)
  | setIndex {i : Instr} (a : Word) (hi : SetsIndex i) : Effect s i ((s.setIndex a).setPc (s.pc + 2))
  | clear : Effect s .cls ((s.setDisplay Display.blank).fbUpdate.setPc (s.pc + 2))
  | draw (x y n : Nibble) (d : Display) (flag : Byte) :
      Effect s (.drw x y n) (((s.setDisplay d).setReg 0xF#4 flag).fbUpdate.setPc (s.pc + 2))
  | setDelay (x : Nibble) (b : Byte) : Effect s (.ldDelay x) ((s.setDelay b).setPc (s.pc + 2))
  | setSound (x : Nibble) (b : Byte) : Effect s (.ldSound x) ((s.setSound b).setPc (s.pc + 2))
  | waitKey (x : Nibble) : Effect s (.ldKey x) ((s.setWait (some x)).setKeyWake false)
  | bcd (x : Nibble) (m : Memory) (hm : Memory.wf s.font s.mem = true → Memory.wf s.font m = true) :
      Effect s (.bcd x) ((s.setMem m).setPc (s.pc + 2))
  | storeRegs (x : Nibble) (m : Memory) (a : Word)
      (hm : Memory.wf s.font s.mem = true → Memory.wf s.font m = true) :
      Effect s (.storeRegs x) (((s.setMem m).setIndex a).setPc (s.pc + 2))
  | loadRegs (x : Nibble) (v : Vector Byte 16) (a : Word)
      (hv : ∀ y : Nibble, x.toNat < y.toNat → (s.setRegs v).reg y = s.reg y) :
      Effect s (.loadRegs x) (((s.setRegs v).setIndex a).setPc (s.pc + 2))

/-! ## Sprites -/

/-- Writing a register with the byte it holds changes nothing. -/
theorem State.setReg_self (s : State) (x : Nibble) : s.setReg x (s.reg x) = s := by
  simp [State.setReg, State.reg]

/-- A sprite of no rows moves `pc` alone (R202 (d)). -/
theorem State.drawSprite_nil (s : State) (x y : Nibble) : s.drawSprite x y [] = s.setPc (s.pc + 2) := by
  have h : (s.setDisplay s.display).setReg 0xF#4 (s.reg 0xF#4) = s := s.setReg_self 0xF#4
  simp [State.drawSprite_eq, drawRows, h]

/-- A flag is 0 or 1 (R21). -/
theorem flagByte_cases (c : Bool) : flagByte c = 0#8 ∨ flagByte c = 1#8 := by
  cases c
  · exact .inl rfl
  · exact .inr rfl

/-- After a row the flag is the flag of the last row (R202). -/
theorem drawRows_flag_cases (d : Display) (x y : Nat) (flag : Byte) {sprite : List Byte} (h : sprite ≠ []) :
    (drawRows d x y flag sprite).2 = 0#8 ∨ (drawRows d x y flag sprite).2 = 1#8 := by
  induction sprite generalizing d y flag with
  | nil => exact absurd rfl h
  | cons b rest ih =>
    rw [drawRows]
    cases rest with
    | nil => exact flagByte_cases _
    | cons c more => exact ih _ _ _ (List.cons_ne_nil c more)

/-- A sprite with a row: another display, a flag in VF, one update event, `pc + 2` (R202). -/
theorem State.drawSprite_of_ne_nil (s : State) (x y : Nibble) {sprite : List Byte} (h : sprite ≠ []) :
    ∃ d flag, (flag = 0#8 ∨ flag = 1#8) ∧
      s.drawSprite x y sprite = ((s.setDisplay d).setReg 0xF#4 flag).fbUpdate.setPc (s.pc + 2) := by
  have hflag := drawRows_flag_cases s.display ((s.reg x).toNat % 64) ((s.reg y).toNat % 32) (s.reg 0xF#4) h
  rw [State.drawSprite_eq]
  simp only [List.isEmpty_iff, h, if_false]
  exact ⟨_, _, hflag, rfl⟩

/-! ## Where `pc` goes -/

/-- A skip from a fetchable `pc` stays in the range of R37. -/
theorem skip_toNat_le (c : Prop) [Decidable c] (pc : Word) (h : pc.toNat ≤ 4094) :
    (if c then pc + 4 else pc + 2).toNat ≤ 4350 := by
  split <;> bv_omega

/-- V0 plus NNN is at most 255 + 4095 (R128). -/
theorem indexedJump_toNat_le (b : Byte) (nnn : Addr) : (b.setWidth 16 + zext16 nnn).toNat ≤ 4350 := by
  have hb := b.isLt
  have hn := nnn.isLt
  rw [BitVec.toNat_add, toNat_zext16, BitVec.toNat_setWidth]
  omega

/-! ## Every instruction has one of the effects -/

/-- Every instruction answers one of the effects. The named arms are those with a fault of the spec. -/
theorem exec_has_effect (i : Instr) (s : State) : ∃ t, exec i s = .next t ∧ Effect s i t := by
  cases i with
  | cls => exact ⟨_, rfl, .clear⟩
  | ret =>
    obtain ⟨-, h⟩ | ⟨k, hk, h⟩ := exec_ret_cases s
    · exact ⟨_, h, .fault _ (.inl rfl) rfl (.inr (.inl rfl))⟩
    · exact ⟨_, h, .ret k hk⟩
  | jp nnn => exact ⟨_, rfl, .move _ (.inr (by simp [TransfersControl])) fun _ => by simp; omega⟩
  | call nnn =>
    obtain ⟨-, h⟩ | ⟨hlt, h⟩ := exec_call_cases s nnn
    · exact ⟨_, h, .fault _ (by simp [CanReport]) rfl (.inr (by simp [TransfersControl]))⟩
    · exact ⟨_, h, .call nnn hlt⟩
  | jpV0 nnn =>
    exact ⟨_, rfl, .move _ (.inr (by simp [TransfersControl])) fun _ => indexedJump_toNat_le _ _⟩
  | seImm | sneImm | seReg | sneReg =>
    exact ⟨_, rfl, .move _ (.inr (by simp [TransfersControl])) (skip_toNat_le _ _)⟩
  | skp x =>
    obtain ⟨-, h⟩ | ⟨k, -, h⟩ := exec_skp_cases s x
    · exact ⟨_, h, .fault _ (by simp [CanReport]) rfl (.inl rfl)⟩
    · exact ⟨_, h, .move _ (.inr (by simp [TransfersControl])) (skip_toNat_le _ _)⟩
  | sknp x =>
    obtain ⟨-, h⟩ | ⟨k, -, h⟩ := exec_sknp_cases s x
    · exact ⟨_, h, .fault _ (by simp [CanReport]) rfl (.inl rfl)⟩
    · exact ⟨_, h, .move _ (.inr (by simp [TransfersControl])) (skip_toNat_le _ _)⟩
  | ldImm | addImm | ldReg | orReg | andReg | xorReg | ldFromDelay =>
    exact ⟨_, rfl, .result _ _ (by simp [WritesResult])⟩
  | rnd x nn => exact ⟨_, rfl, .random x nn _⟩
  | addReg | subReg | shrReg | subnReg | shlReg => exact ⟨_, rfl, .flagged _ _ _ (by simp [WritesFlag])⟩
  | ldIndex | addIndex | ldFont => exact ⟨_, rfl, .setIndex _ (by simp [SetsIndex])⟩
  | drw x y n =>
    obtain ⟨-, -, h⟩ | ⟨-, h⟩ | ⟨hn, -, sprite, hl, -, h⟩ := exec_drw_cases s x y n
    · exact ⟨_, h, .fault _ (by simp [CanReport]) rfl (.inl rfl)⟩
    · rw [State.drawSprite_nil] at h
      exact ⟨_, h, .move _ (.inl rfl) fun _ => by bv_omega⟩
    · obtain ⟨d, flag, -, hd⟩ := s.drawSprite_of_ne_nil x y (List.ne_nil_of_length_pos (by omega : 0 < sprite.length))
      rw [hd] at h
      exact ⟨_, h, .draw x y n d flag⟩
  | ldDelay x => exact ⟨_, rfl, .setDelay x _⟩
  | ldSound x => exact ⟨_, rfl, .setSound x _⟩
  | ldKey x => exact ⟨_, rfl, .waitKey x⟩
  | bcd x =>
    obtain ⟨-, h⟩ | ⟨-, m, h, hm, -, -⟩ := exec_bcd_cases s x
    · exact ⟨_, h, .fault _ (by simp [CanReport]) rfl (.inl rfl)⟩
    · exact ⟨_, h, .bcd x m hm⟩
  | storeRegs x =>
    obtain ⟨-, h⟩ | ⟨-, m, h, hm, -, -⟩ := exec_storeRegs_cases s x
    · exact ⟨_, h, .fault _ (by simp [CanReport]) rfl (.inl rfl)⟩
    · exact ⟨_, h, .storeRegs x m _ hm⟩
  | loadRegs x =>
    obtain ⟨-, h⟩ | ⟨-, v, h, -, hv⟩ := exec_loadRegs_cases s x
    · exact ⟨_, h, .fault _ (by simp [CanReport]) rfl (.inl rfl)⟩
    · exact ⟨_, h, .loadRegs x v _ hv⟩

/-- Whatever an instruction answers is one of the effects. -/
theorem exec_effect {i : Instr} {s t : State} (h : exec i s = .next t) : Effect s i t := by
  obtain ⟨u, hu, e⟩ := exec_has_effect i s
  rw [h] at hu
  injection hu with hu
  exact hu ▸ e

/-! ## The parts an effect changes -/

section
variable {s t : State} {i : Instr}

/-- The parts no instruction changes (R36, R258): keys, lifecycle, the load result, the agenda and FONT. -/
theorem Effect.unchanged (e : Effect s i t) :
    Unchanged [.regs, .index, .pc, .stack, .memory, .display, .delayTimer, .soundTimer, .keyWait, .reports,
      .fbUpdates, .draws] s t := by
  cases e with
  | fault r hi hf hpc => constructor <;> simp [hf]
  | _ => constructor <;> simp

/-- The writers of a register (R20). -/
theorem Effect.reg (e : Effect s i t) {y : Nibble} (hy : t.reg y ≠ s.reg y) :
    WritesResult i y ∨ (∃ x, (y = x ∨ y = 0xF#4) ∧ WritesFlag i x) ∨ (∃ x z n, y = 0xF#4 ∧ i = .drw x z n) ∨
      ∃ x, y.toNat ≤ x.toNat ∧ i = .loadRegs x := by
  cases e with
  | result x b hi =>
    have : y = x := by by_contra h; simp [h] at hy
    exact .inl (this ▸ hi)
  | random x nn b =>
    have : y = x := by by_contra h; simp [h] at hy
    exact .inl (.inl ⟨nn, by simp [this]⟩)
  | flagged x b flag hi =>
    refine .inr (.inl ⟨x, ?_, hi⟩)
    by_contra h
    simp only [not_or] at h
    simp [h] at hy
  | draw x z n d flag =>
    have : y = 0xF#4 := by by_contra h; simp [h] at hy
    exact .inr (.inr (.inl ⟨x, z, n, this, rfl⟩))
  | loadRegs x v a hv =>
    refine .inr (.inr (.inr ⟨x, ?_, rfl⟩))
    by_contra h
    exact hy (hv y (by omega))
  | _ => simp at hy

theorem Effect.pc (e : Effect s i t) (h : t.pc ≠ s.pc + 2) : TransfersControl i := by
  cases e with
  | fault r hi hf hpc => exact hpc.resolve_left h
  | move target hi hb => exact hi.resolve_left h
  | call nnn hlt => simp [TransfersControl]
  | ret k hk => exact .inl rfl
  | waitKey x => simp [TransfersControl]
  | _ => simp at h

theorem Effect.reports (e : Effect s i t) (h : t.reports ≠ s.reports ∨ t.faultMark ≠ s.faultMark) : CanReport i := by
  cases e with
  | fault r hi hf hpc => exact hi
  | _ => simp at h

theorem Effect.display (e : Effect s i t) (h : t.display ≠ s.display ∨ t.fbUpdates ≠ s.fbUpdates) :
    i = .cls ∨ ∃ x y n, i = .drw x y n := by
  cases e with
  | clear => exact .inl rfl
  | draw x y n d flag => exact .inr ⟨x, y, n, rfl⟩
  | _ => simp at h

theorem Effect.stack (e : Effect s i t) (h : t.stack ≠ s.stack ∨ t.stackSize ≠ s.stackSize) :
    i = .ret ∨ ∃ nnn, i = .call nnn := by
  cases e with
  | call nnn hlt => exact .inr ⟨nnn, rfl⟩
  | ret k hk => exact .inl rfl
  | _ => simp at h

theorem Effect.mem (e : Effect s i t) (h : t.mem ≠ s.mem) : ∃ x, i = .bcd x ∨ i = .storeRegs x := by
  cases e with
  | bcd x m hm => exact ⟨x, .inl rfl⟩
  | storeRegs x m a hm => exact ⟨x, .inr rfl⟩
  | _ => simp at h

theorem Effect.index (e : Effect s i t) (h : t.index ≠ s.index) : (∃ nnn, i = .ldIndex nnn) ∨
    ∃ x, i = .addIndex x ∨ i = .ldFont x ∨ i = .storeRegs x ∨ i = .loadRegs x := by
  cases e with
  | setIndex a hi =>
    obtain hn | ⟨x, hx | hx⟩ := hi
    · exact .inl hn
    · exact .inr ⟨x, .inl hx⟩
    · exact .inr ⟨x, .inr (.inl hx)⟩
  | storeRegs x m a hm => exact .inr ⟨x, by simp⟩
  | loadRegs x v a hv => exact .inr ⟨x, by simp⟩
  | _ => simp at h

theorem Effect.delayTimer (e : Effect s i t) (h : t.delayTimer ≠ s.delayTimer) : ∃ x, i = .ldDelay x := by
  cases e with
  | setDelay x b => exact ⟨x, rfl⟩
  | _ => simp at h

theorem Effect.soundTimer (e : Effect s i t) (h : t.soundTimer ≠ s.soundTimer) : ∃ x, i = .ldSound x := by
  cases e with
  | setSound x b => exact ⟨x, rfl⟩
  | _ => simp at h

theorem Effect.keyWait (e : Effect s i t) (h : t.wait ≠ s.wait ∨ t.keyWake ≠ s.keyWake) : ∃ x, i = .ldKey x := by
  cases e with
  | waitKey x => exact ⟨x, rfl⟩
  | _ => simp at h

theorem Effect.draws (e : Effect s i t) (h : t.draws ≠ s.draws) : ∃ x nn, i = .rnd x nn := by
  cases e with
  | random x nn b => exact ⟨x, nn, rfl⟩
  | _ => simp at h

end

/-- Settles O50: each clause is the clause of `Effect` on its part. -/
theorem eachPartHasItsWriters : Obligations.EachPartHasItsWriters := by
  intro i s t h
  have e := exec_effect h
  refine ⟨fun y hy => ?_, e.pc, e.reports, e.display, e.stack, e.mem, e.index, e.delayTimer, e.soundTimer, e.keyWait,
    e.draws, e.unchanged⟩
  obtain (hi | hi | hi) | ⟨x, hx, z, hi⟩ | hi | hi := e.reg hy
  · exact .inl hi
  · exact .inr (.inl hi)
  · exact .inr (.inr (.inr (.inr (.inl hi))))
  · exact .inr (.inr (.inl ⟨x, z, hx, hi⟩))
  · exact .inr (.inr (.inr (.inl hi)))
  · exact .inr (.inr (.inr (.inr (.inr hi))))

end Sys2Proof.Machine
end

section
/-! What VF holds after an instruction (10_state.md R21). -/

namespace Sys2Proof.Machine

/-- A byte below 2 is 0 or 1. -/
theorem byte_eq_zero_or_one {b : Byte} (h : b.toNat < 2) : b = 0#8 ∨ b = 1#8 := by
  bv_omega

/-- The bit `8XY6` shifts out is 0 or 1 (R159). -/
theorem shrFlag_cases (b : Byte) : shrFlag b = 0#8 ∨ shrFlag b = 1#8 := by
  apply byte_eq_zero_or_one
  rw [shrFlag, BitVec.toNat_and]
  exact Nat.lt_succ_of_le Nat.and_le_right

/-- The bit `8XYE` shifts out is 0 or 1 (R161). -/
theorem shlFlag_cases (b : Byte) : shlFlag b = 0#8 ∨ shlFlag b = 1#8 := by
  have hb := b.isLt
  apply byte_eq_zero_or_one
  rw [shlFlag, BitVec.toNat_ushiftRight, Nat.shiftRight_eq_div_pow]
  omega

/-- An instruction that ends with its flag leaves the flag in VF, whatever its destination (R150). -/
theorem reg_flag_of_finishWithFlag {s t : State} {x : Nibble} {b flag : Byte}
    (hf : flag = 0#8 ∨ flag = 1#8)
    (h : (.next (s.finishWithFlag x b flag) : Host.Outcome State Fault Refusal) = .next t) :
    t.reg 0xF#4 = 0#8 ∨ t.reg 0xF#4 = 1#8 := by
  injection h with h
  subst h
  simpa using hf

/-- A sprite with a row inside memory leaves a flag in VF (R202). -/
theorem reg_flag_of_exec_drw {s t : State} {x y n : Nibble} (h : exec (.drw x y n) s = .next t) (hn : n ≠ 0#4)
    (hb : s.index.toNat + n.toNat ≤ 4096) : t.reg 0xF#4 = 0#8 ∨ t.reg 0xF#4 = 1#8 := by
  have hn' : n.toNat ≠ 0 := fun e => hn (BitVec.eq_of_toNat_eq e)
  obtain ⟨-, hgt, -⟩ | ⟨h0, -⟩ | ⟨-, -, sprite, hl, -, he⟩ := exec_drw_cases s x y n
  · omega
  · exact absurd h0 hn'
  · obtain ⟨d, flag, hf, hd⟩ := s.drawSprite_of_ne_nil x y (List.ne_nil_of_length_pos (by omega : 0 < sprite.length))
    rw [he, hd] at h
    injection h with h
    subst h
    simpa using hf

/-- Settles O23: each flag writer ends with its flag, and the writers of a register that can be VF are those of
`Effect.reg`. -/
theorem flagRegisterHoldsOnlyFlags : Obligations.FlagRegisterHoldsOnlyFlags := by
  intro x y n s t
  constructor
  · rintro (h | h | h | h | h | ⟨h, hn, hb⟩)
    · exact reg_flag_of_finishWithFlag (flagByte_cases _) h
    · exact reg_flag_of_finishWithFlag (flagByte_cases _) h
    · exact reg_flag_of_finishWithFlag (shrFlag_cases _) h
    · exact reg_flag_of_finishWithFlag (flagByte_cases _) h
    · exact reg_flag_of_finishWithFlag (shlFlag_cases _) h
    · exact reg_flag_of_exec_drw h hn hb
  · intro i h hne
    obtain (hi | hi | hi) | ⟨x, -, z, hi⟩ | ⟨x, z, m, -, hi⟩ | ⟨x, hx, hi⟩ := (exec_effect h).reg hne
    · exact .inr (.inr (.inl hi))
    · exact .inr (.inr (.inr (.inl hi)))
    · exact .inr (.inr (.inr (.inr (.inl hi))))
    · exact .inl ⟨x, z, hi⟩
    · exact .inr (.inl ⟨x, z, m, hi⟩)
    · obtain rfl : x = 0xF#4 := by bv_omega
      exact .inr (.inr (.inr (.inr (.inr hi))))

end Sys2Proof.Machine
end

section
/-! The state `State.initMachine` makes (10_state.md R39, 70_reset_and_hazards.md R290); reset is what it makes of
reset. -/

namespace Sys2Proof.Machine

/-- A machine whose memory lists nothing reads FONT and 0 above it (R25). -/
theorem State.readByte_of_mem_nil {s : State} {a : Nat} (hm : s.mem = []) (ha : a < 4096) :
    s.readByte a = some (Memory.background s.font a) := by
  simp [State.readByte, Memory.read, Memory.lookup, memSize, hm, ha]

theorem State.initMachine_atInitialValues (s : State) : s.initMachine.AtInitialValues := by
  refine ⟨fun x => ?_, rfl, rfl, rfl, fun a => ?_, fun a hlo hhi => ?_, Display.byte_blank, fun k => ?_, rfl, rfl, rfl,
    rfl, rfl, rfl, rfl, rfl⟩
  · exact Vector.getElem_replicate _
  · rw [State.readByte_of_mem_nil rfl (by omega)]
    simp [Memory.background]
  · rw [State.readByte_of_mem_nil rfl (by omega)]
    simp [Memory.background, Nat.not_lt.mpr hlo]
  · exact Vector.getElem_replicate _

/-- Beside FONT, which is kept, every element is at its value of R39, so nothing is needed of `s`. -/
theorem State.initMachine_inv (s : State) : s.initMachine.Inv where
  mem := rfl
  pc := show (0x200#16).toNat ≤ 4350 by decide
  stack _ hk := absurd hk (Nat.not_lt_zero _)
  wake h := nomatch h
  wait _ h := nomatch h
  halted h := nomatch h
  live h := nomatch h
  mark _ h := nomatch h

/-- Settles O54: reset is what `State.initMachine` makes of reset. -/
theorem resetIsAtTheInitialValues : Obligations.ResetIsAtTheInitialValues :=
  ⟨State.reset.initMachine_atInitialValues, rfl⟩

/-- Settles O59, as O54. -/
theorem resetMeetsTheInvariant : Obligations.ResetMeetsTheInvariant := State.reset.initMachine_inv

end Sys2Proof.Machine
end

section
/-! The steps of the tick agent, of the key-event agent and of an agent that observes a stop (44_timers_keys.md R223,
R228, R231, 70_reset_and_hazards.md R293). -/

namespace Sys2Proof.Machine

/-- A key event with a valid code (R228). -/
theorem keyEvent_of_lt (s : State) (kind : KeyKind) {code : Byte} (h : code.toNat < 16) :
    s.keyEvent kind code = ((s.setLastEvent ⟨true, kind, code.setWidth 4⟩).setKeys
      (s.keys.set code.toNat (decide (kind = .pressed)) h)).setKeyWake true := by
  simp [State.keyEvent, h]

/-- A key event with a code above 15 is reported and ignored (R228). -/
theorem keyEvent_of_ge (s : State) (kind : KeyKind) {code : Byte} (h : ¬code.toNat < 16) :
    s.keyEvent kind code = s.report (.keyCodeRange code) := by
  simp [State.keyEvent, h]

/-- A tick agent that reads `running` = 1 goes on (R293). -/
theorem tickObservesStop_running {s : State} (h : s.running = true) : s.tickObservesStop = s := by
  simp [State.tickObservesStop, h]

/-- The tick agent ceases where it reads `running` = 0 (R293). -/
theorem tickObservesStop_stopped {s : State} (h : s.running = false) : s.tickObservesStop = s.setTickActive false := by
  simp [State.tickObservesStop, h]

/-- The tick agent's turns write the timers and its own activity, and nothing else (R223, R293). -/
def TickAgentFrame (s t : State) : Prop :=
  t.running = s.running ∧ t.execHalted = s.execHalted ∧ t.executorActive = s.executorActive ∧
    Unchanged [.delayTimer, .soundTimer, .lifecycle, .agenda] s t

theorem tickTurn_frame (s : State) (rest : List Turn) : TickAgentFrame s (s.setAgenda rest).tickTurn := by
  cases h : s.tickActive with
  | true => rw [tickTurn_active (s := s.setAgenda rest) h]; exact ⟨rfl, rfl, rfl, by constructor <;> simp⟩
  | false => rw [tickTurn_ceased (s := s.setAgenda rest) h]; exact ⟨rfl, rfl, rfl, by constructor <;> simp⟩

theorem tickObservesStop_frame (s : State) (rest : List Turn) :
    TickAgentFrame s (s.setAgenda rest).tickObservesStop := by
  cases h : s.running with
  | true => rw [tickObservesStop_running (s := s.setAgenda rest) h]; exact ⟨rfl, rfl, rfl, by constructor <;> simp⟩
  | false => rw [tickObservesStop_stopped (s := s.setAgenda rest) h]; exact ⟨rfl, rfl, rfl, by constructor <;> simp⟩

/-- A key event leaves the wait and everything but the keys, `key_wake` and the report stream (R228). -/
theorem keyEvent_frame (s : State) (rest : List Turn) (kind : KeyKind) (code : Byte) :
    ((s.setAgenda rest).keyEvent kind code).wait = s.wait ∧
      Unchanged [.keys, .keyWait, .reports, .agenda] s ((s.setAgenda rest).keyEvent kind code) := by
  by_cases h : code.toNat < 16
  · rw [keyEvent_of_lt _ _ h]; exact ⟨rfl, by constructor <;> simp⟩
  · rw [keyEvent_of_ge _ _ h]; exact ⟨rfl, by constructor <;> simp⟩

/-- Settles O51: the step is the turn of the agenda, and each turn has its frame. -/
theorem otherAgentsLeaveTheProgramAlone : Obligations.OtherAgentsLeaveTheProgramAlone := by
  intro s t rest h
  refine ⟨?_, fun kind code ha => ?_⟩
  · rintro (ha | ha) <;> rw [step_turn ha] at h <;> injection h with h <;> subst h
    · exact tickTurn_frame s rest
    · exact tickObservesStop_frame s rest
  · rw [step_turn ha] at h
    injection h with h
    subst h
    exact keyEvent_frame s rest kind code

end Sys2Proof.Machine
end

section
/-! A word is the encoding of what it decodes to (30_encoding.md R94, R95): one lemma for each family with
sub-operations, then the sixteen families. -/

namespace Sys2Proof

theorem encode_of_decodeFamily0 {w : Word} {i : Instr} (h : decodeFamily0 w = .ok i) : encode i = w := by
  unfold decodeFamily0 at h
  split at h
  · next hw => cases h; exact hw.symm
  · split at h
    · next hw => cases h; exact hw.symm
    · cases h

theorem encode_of_decodeFamily8 {x y n : Nibble} {i : Instr} (h : decodeFamily8 x y n = .ok i) :
    encode i = formatR 0x8#4 x y n := by
  unfold decodeFamily8 at h
  split at h <;> cases h <;> rfl

theorem encode_of_decodeFamilyE {x : Nibble} {nn : Byte} {i : Instr} (h : decodeFamilyE x nn = .ok i) :
    encode i = formatI 0xE#4 x nn := by
  unfold decodeFamilyE at h
  split at h <;> cases h <;> rfl

theorem encode_of_decodeFamilyF {x : Nibble} {nn : Byte} {i : Instr} (h : decodeFamilyF x nn = .ok i) :
    encode i = formatI 0xF#4 x nn := by
  unfold decodeFamilyF at h
  split at h <;> cases h <;> rfl

/-- Families 0x5 and 0x9 take the low nibble 0 alone (R95). -/
theorem encode_of_decode_lowNibble {w : Word} {op : Nibble} {i j : Instr} (hop : fieldOP w = op)
    (hj : encode j = formatR op (fieldX w) (fieldY w) 0x0#4)
    (h : (if fieldN4 w = 0x0#4 then .ok j else .error .malformedLowNibble : Except InvalidWord Instr) = .ok i) :
    encode i = w := by
  split at h
  · next hn => cases h; rw [hj, formatR_fields hop hn]
  · cases h

/-- A word that decodes is the encoding of what it decodes to. -/
theorem encode_of_decodeWord {w : Word} {i : Instr} (h : decodeWord w = .ok i) : encode i = w := by
  obtain ho | ho | ho | ho | ho | ho | ho | ho | ho | ho | ho | ho | ho | ho | ho | ho := nibble_cases (fieldOP w)
  · rw [decodeWord_family0 ho] at h; exact encode_of_decodeFamily0 h
  · rw [decodeWord_family1 ho] at h; cases h; exact formatA_fields ho
  · rw [decodeWord_family2 ho] at h; cases h; exact formatA_fields ho
  · rw [decodeWord_family3 ho] at h; cases h; exact formatI_fields ho rfl
  · rw [decodeWord_family4 ho] at h; cases h; exact formatI_fields ho rfl
  · rw [decodeWord_family5 ho] at h; exact encode_of_decode_lowNibble ho rfl h
  · rw [decodeWord_family6 ho] at h; cases h; exact formatI_fields ho rfl
  · rw [decodeWord_family7 ho] at h; cases h; exact formatI_fields ho rfl
  · rw [decodeWord_family8 ho] at h; rw [encode_of_decodeFamily8 h, formatR_fields ho rfl]
  · rw [decodeWord_family9 ho] at h; exact encode_of_decode_lowNibble ho rfl h
  · rw [decodeWord_familyA ho] at h; cases h; exact formatA_fields ho
  · rw [decodeWord_familyB ho] at h; cases h; exact formatA_fields ho
  · rw [decodeWord_familyC ho] at h; cases h; exact formatI_fields ho rfl
  · rw [decodeWord_familyD ho] at h; cases h; exact formatR_fields ho rfl
  · rw [decodeWord_familyE ho] at h; rw [encode_of_decodeFamilyE h, formatI_fields ho rfl]
  · rw [decodeWord_familyF ho] at h; rw [encode_of_decodeFamilyF h, formatI_fields ho rfl]

end Sys2Proof
end

section
/-! The invariant is kept (10_state.md R37): by the effect of every instruction, part by part; by a report; and by the
turn of every other agent. -/

namespace Sys2Proof.Machine

/-! ## Reports -/

/-- A report keeps the mark in step with the stream (R267). -/
theorem State.Inv.mark_report {s : State} (h : s.Inv) (r : Report) :
    ∀ q ∈ s.reports ++ [r], q.marks = true → (s.faultMark || r.marks) = true := by
  intro q hq hm
  rw [List.mem_append, List.mem_singleton] at hq
  obtain hq | rfl := hq
  · simp [h.mark q hq hm]
  · simp [hm]

/-- A fault of an executor that is not waiting keeps the invariant, if `pc` after it is in range, and beyond the last
fetch where the fault is fatal (R252, R253). -/
theorem State.Inv.raise {s : State} (h : s.Inv) (hw : s.wait = none) (hh : s.execHalted = false) (r : Report)
    (hpc : (r.pcAfter s.pc).toNat ≤ 4350) (hf : r.fatal = true → 4094 < (r.pcAfter s.pc).toNat) :
    (s.raise r).Inv where
  mem := h.mem
  pc := hpc
  stack := h.stack
  wake := h.wake
  wait x hx := by simp [hw] at hx
  halted hx := hf (by simpa [hh] using hx)
  live := h.live
  mark := h.mark_report r

/-! ## Instructions -/

section
variable {s t : State} {i : Instr}

theorem Effect.mem_wf (e : Effect s i t) (h : Memory.wf s.font s.mem = true) : Memory.wf t.font t.mem = true := by
  cases e with
  | bcd x m hm => exact hm h
  | storeRegs x m a hm => exact hm h
  | _ => simpa using h

/-- `pc` stays in the range of R37: two or four beyond a fetchable one, a jump target, or an entry of the stack. -/
theorem Effect.pc_le (e : Effect s i t) (hpc : s.pc.toNat ≤ 4094)
    (hst : ∀ k : Fin 48, k.val < s.stackSize.val → s.stack[k].toNat ≤ 4096) : t.pc.toNat ≤ 4350 := by
  have h2 : (s.pc + 2).toNat ≤ 4350 := by bv_omega
  cases e with
  | fault r hi hf hp =>
    rw [State.raise_pc, Report.pcAfter_eq]
    split <;> omega
  | move target hi hb => exact hb hpc
  | call nnn hlt => simp; omega
  | ret k hk => exact (hst k (by omega)).trans (by decide)
  | waitKey x => exact hpc.trans (by decide)
  | _ => simpa using h2

/-- The one push is of `pc + 2`, and a pop uncovers nothing new (R123). -/
theorem Effect.stack_le (e : Effect s i t) (hpc : s.pc.toNat ≤ 4094)
    (hst : ∀ k : Fin 48, k.val < s.stackSize.val → s.stack[k].toNat ≤ 4096) (k : Fin 48)
    (hk : k.val < t.stackSize.val) : t.stack[k].toNat ≤ 4096 := by
  cases e with
  | call nnn hlt =>
    simp only [State.setPc_stack, State.setStack_stack, Fin.getElem_fin, Vector.getElem_set]
    split
    · bv_omega
    · next hne => exact hst k (by simp at hk; omega)
  | ret j hj => exact hst k (by simp at hk; omega)
  | _ => exact hst k hk

theorem Effect.wake_valid (e : Effect s i t) (h : s.keyWake = true → s.lastEvent.valid = true) :
    t.keyWake = true → t.lastEvent.valid = true := by
  cases e with
  | waitKey x => exact fun hk => nomatch hk
  | _ => exact h

/-- A wait that begins is at the `FX0A` that began it (R33, R229). -/
theorem Effect.wait_at (e : Effect s i t) (hw : s.wait = none) {x : Nibble} (hx : t.wait = some x) :
    i = .ldKey x ∧ t.readWord t.pc.toNat = s.readWord s.pc.toNat := by
  cases e with
  | waitKey y =>
    obtain rfl : y = x := by simpa using hx
    exact ⟨rfl, rfl⟩
  | _ => simp [hw] at hx

theorem Effect.mark (e : Effect s i t) (h : s.Inv) : ∀ r ∈ t.reports, r.marks = true → t.faultMark = true := by
  cases e with
  | fault r hi hf hp => exact h.mark_report r
  | _ => exact h.mark

/-- The effect of the instruction at `pc` keeps the invariant. -/
theorem State.Inv.effect (h : s.Inv) (e : Effect s i t) (ha : s.executorActive = true) (hh : s.execHalted = false)
    (hw : s.wait = none) (hpc : s.pc.toNat ≤ 4094) (hi : s.readWord s.pc.toNat = some (encode i)) : t.Inv := by
  obtain ⟨hrun, hhalt, hact, htick⟩ := e.unchanged.lifecycle (by decide)
  exact {
    mem := e.mem_wf h.mem
    pc := e.pc_le hpc h.stack
    stack := e.stack_le hpc h.stack
    wake := e.wake_valid h.wake
    wait := fun x hx => by
      obtain ⟨rfl, hword⟩ := e.wait_at hw hx
      exact ⟨hword.trans hi, hhalt.trans hh, hact.trans ha⟩
    halted := fun hx => by rw [hhalt, hh] at hx; cases hx
    live := by rw [hrun, hact, htick]; exact h.live
    mark := e.mark h }

end

/-! ## The executor -/

/-- An instruction step keeps the invariant: the fetch beyond memory, an invalid word, an instruction (R120). -/
theorem State.Inv.instructionStep {s t : State} (h : s.Inv) (ha : s.executorActive = true) (hh : s.execHalted = false)
    (hw : s.wait = none) (hs : s.instructionStep = .next t) : t.Inv := by
  obtain ⟨hpc, he⟩ | ⟨hpc, w, hword, ⟨e, hd, he⟩ | ⟨i, hd, he⟩⟩ := instructionStep_cases s
  · cases he.symm.trans hs
    exact h.raise hw hh _ h.pc fun _ => hpc
  · cases he.symm.trans hs
    have h2 : (s.pc + 2).toNat ≤ 4350 := by bv_omega
    cases e <;> exact h.raise hw hh _ h2 fun hf => nomatch hf
  · rw [← encode_of_decodeWord hd] at hword
    exact h.effect (exec_effect (he.symm.trans hs)) ha hh hw hpc hword

/-- A pending wait stands at a fetchable `pc`. -/
theorem State.Inv.wait_pc {s : State} (h : s.Inv) {x : Nibble} (hw : s.wait = some x) : s.pc.toNat < 4096 := by
  obtain ⟨hword, -, -⟩ := h.wait x hw
  by_contra hge
  simp [State.readWord, s.readByte_none s.pc.toNat (by omega)] at hword

/-- The wake step keeps the invariant: a press ends the wait at `pc + 2`, a release leaves it (R230). -/
theorem State.Inv.wakeStep {s : State} (h : s.Inv) {x : Nibble} (hw : s.wait = some x) : (s.wakeStep x).Inv := by
  obtain ⟨-, hh, -⟩ := h.wait x hw
  have hpc := h.wait_pc hw
  have h2 : (s.pc + 2).toNat ≤ 4350 := by bv_omega
  unfold State.wakeStep
  split
  · exact {
      mem := h.mem
      pc := h2
      stack := h.stack
      wake := fun hk => nomatch hk
      wait := fun _ hx => nomatch hx
      halted := fun hx => by simp [hh] at hx
      live := h.live
      mark := h.mark }
  · exact ⟨h.mem, h.pc, h.stack, (fun hk => nomatch hk), h.wait, h.halted, h.live, h.mark⟩

/-- The executor's turn keeps the invariant. -/
theorem State.Inv.executorTurn {s t : State} (h : s.Inv) (hs : s.executorTurn = .next t) : t.Inv := by
  obtain ⟨-, he⟩ | ⟨ha, hh, hw, he⟩ | ⟨x, -, -, -, -, he⟩ | ⟨x, -, -, hw, -, he⟩ := executorTurn_cases s
  · cases he.symm.trans hs; exact h
  · exact h.instructionStep ha hh hw (he.symm.trans hs)
  · cases he.symm.trans hs; exact h
  · cases he.symm.trans hs; exact h.wakeStep hw

/-- An executor that ceases releases its wait (R231, R293). -/
theorem State.Inv.executorObservesStop {s : State} (h : s.Inv) : s.executorObservesStop.Inv := by
  unfold State.executorObservesStop
  split
  · exact h
  · next hr =>
    exact ⟨h.mem, h.pc, h.stack, h.wake, (fun _ hx => nomatch hx), h.halted, fun hx => absurd hx hr, h.mark⟩

/-! ## The other agents -/

theorem State.Inv.setAgenda {s : State} (h : s.Inv) (rest : List Turn) : (s.setAgenda rest).Inv :=
  ⟨h.mem, h.pc, h.stack, h.wake, h.wait, h.halted, h.live, h.mark⟩

theorem State.Inv.tickTurn {s : State} (h : s.Inv) : s.tickTurn.Inv := by
  cases ha : s.tickActive with
  | true =>
    rw [tickTurn_active ha]
    exact ⟨h.mem, h.pc, h.stack, h.wake, h.wait, h.halted, fun hr => ⟨(h.live hr).1, hr⟩, h.mark⟩
  | false => rw [tickTurn_ceased ha]; exact h

theorem State.Inv.tickObservesStop {s : State} (h : s.Inv) : s.tickObservesStop.Inv := by
  cases hr : s.running with
  | true => rw [tickObservesStop_running hr]; exact h
  | false =>
    rw [tickObservesStop_stopped hr]
    exact ⟨h.mem, h.pc, h.stack, h.wake, h.wait, h.halted, (fun hx => nomatch hr.symm.trans hx), h.mark⟩

theorem State.Inv.keyEvent {s : State} (h : s.Inv) (kind : KeyKind) (code : Byte) : (s.keyEvent kind code).Inv := by
  by_cases hc : code.toNat < 16
  · rw [keyEvent_of_lt _ _ hc]
    exact ⟨h.mem, h.pc, h.stack, fun _ => rfl, h.wait, h.halted, h.live, h.mark⟩
  · rw [keyEvent_of_ge _ _ hc]
    exact ⟨h.mem, h.pc, h.stack, h.wake, h.wait, h.halted, h.live, h.mark_report _⟩

/-- A Stopped machine has no wait, since a pending wait keeps its executor (R291, R293). -/
theorem State.Inv.wait_of_stopped {s : State} (h : s.Inv) (hs : s.stopped = true) : s.wait = none := by
  cases hw : s.wait with
  | none => rfl
  | some x =>
    obtain ⟨-, hh, ha⟩ := h.wait x hw
    simp [State.stopped, State.executorDone, hh, ha] at hs

/-- A load into a Stopped machine can put anything at `pc`, where no wait is pending (R79). -/
theorem State.Inv.loadImage {s t : State} (h : s.Inv) (hs : s.stopped = true) {image : List Byte}
    (ht : s.loadImage image = .next t) : t.Inv := by
  have hw := h.wait_of_stopped hs
  obtain ⟨-, m, he, hm, -, -⟩ | ⟨-, he⟩ := loadImage_cases s image
  · cases he.symm.trans ht
    exact ⟨hm h.mem, h.pc, h.stack, h.wake, (fun x hx => nomatch hw.symm.trans hx), h.halted, h.live, h.mark⟩
  · cases he.symm.trans ht
    exact ⟨h.mem, h.pc, h.stack, h.wake, h.wait, h.halted, h.live, h.mark⟩

theorem State.Inv.startMachine {s : State} (h : s.Inv) (hs : s.stopped = true) : s.startMachine.Inv := by
  have hw := h.wait_of_stopped hs
  exact ⟨h.mem, h.pc, h.stack, h.wake, (fun x hx => nomatch hw.symm.trans hx), h.halted, fun _ => ⟨rfl, rfl⟩, h.mark⟩

theorem State.Inv.stopMachine {s : State} (h : s.Inv) : s.stopMachine.Inv :=
  ⟨h.mem, h.pc, h.stack, h.wake, h.wait, h.halted, (fun hx => nomatch hx), h.mark⟩

/-- Settles O60: whichever agent moves, its turn keeps the invariant. -/
theorem stepKeepsTheInvariant : Obligations.StepKeepsTheInvariant := by
  intro s t h hstep
  obtain ⟨rest, -, hcases⟩ := step_next_cases hstep
  have h' : (s.setAgenda rest).Inv := h.setAgenda rest
  obtain ⟨-, ht⟩ | rfl | ⟨-, rfl⟩ | rfl | ⟨kind, code, -, rfl⟩ | ⟨-, -, rfl⟩ | ⟨image, -, hs, ht⟩ | ⟨-, hs, rfl⟩ |
    ⟨-, -, rfl⟩ := hcases
  · exact h'.executorTurn ht
  · exact h'.executorObservesStop
  · exact h'.tickTurn
  · exact h'.tickObservesStop
  · exact h'.keyEvent kind code
  · exact State.initMachine_inv _
  · exact h'.loadImage hs ht
  · exact h'.startMachine hs
  · exact h'.stopMachine

end Sys2Proof.Machine
end

section
/-! What the other agents leave unchanged beside a tick and a key event, and the load (20_memory.md R79). -/

namespace Sys2Proof.Machine

/-- The executor that reads `running` writes its own activity and its wait, and nothing else (R231, R293). -/
theorem executorObservesStop_frame (s : State) :
    s.executorObservesStop.execHalted = s.execHalted ∧
      Unchanged [.lifecycle, .keyWait] s s.executorObservesStop := by
  unfold State.executorObservesStop
  split
  · exact ⟨rfl, by constructor <;> simp⟩
  · exact ⟨rfl, by constructor <;> simp⟩

/-- A load writes memory and its result, and nothing else (R79). -/
theorem loadImage_frame {s t : State} {image : List Byte} (h : s.loadImage image = .next t) :
    Unchanged [.memory, .loadResult] s t := by
  obtain ⟨-, m, he, -⟩ | ⟨-, he⟩ := loadImage_cases s image
  · cases he.symm.trans h
    constructor <;> simp
  · cases he.symm.trans h
    constructor <;> simp

/-- On a Stopped machine with a load next, the step is the load (R79). -/
theorem step_load {s : State} {image : List Byte} {rest : List Turn} (hs : s.stopped = true)
    (ha : s.agenda = .load image :: rest) : step s = (s.setAgenda rest).loadImage image := by
  have hs' : (s.setAgenda rest).stopped = true := hs
  simp [step_turn ha, State.takeTurn, hs']

/-- Settles O53: the load of the host, on the state with its turn taken off the agenda. -/
theorem loadCopiesTheImage : Obligations.LoadCopiesTheImage := by
  intro image s rest hs ha
  rw [step_load hs ha]
  obtain ⟨hle, m, he, -, hin, hout⟩ | ⟨hgt, he⟩ := loadImage_cases (s.setAgenda rest) image
  · exact ⟨fun _ => ⟨_, he, hin, hout, rfl, rfl, by constructor <;> simp⟩, fun h => absurd hle (Nat.not_le.mpr h)⟩
  · exact ⟨fun h => absurd h (Nat.not_le.mpr hgt), fun _ => ⟨_, he, rfl, rfl, by constructor <;> simp⟩⟩

end Sys2Proof.Machine
end

section
/-! The fetch beyond memory and the halt after it (20_memory.md R67, 60_exceptions.md R253). -/

namespace Sys2Proof.Machine

/-- An instruction step beyond the last fetch is the fatal fault (R67, R255). -/
theorem instructionStep_beyond {s : State} (h : 4094 < s.pc.toNat) :
    s.instructionStep = .next (s.raise (.pcBounds s.pc)) := by
  obtain ⟨-, he⟩ | ⟨hle, -⟩ := instructionStep_cases s
  · exact he
  · exact absurd hle (Nat.not_le.mpr h)

/-- The halted executor's turn is spent and changes nothing (R253). -/
theorem step_halted {s : State} {rest : List Turn} (hh : s.execHalted = true) (hn : s.ExecutorNext rest) :
    step s = .next (s.setAgenda rest) := by
  rw [step_executor hn, executorTurn_idle (s := s.setAgenda rest) (.inr hh)]

/-- Only an initialize ends the halt (R33, R253). -/
theorem step_keeps_halt {s t : State} (hh : s.execHalted = true) (h : step s = .next t) :
    t.execHalted = true ∨ ∃ rest, s.agenda = .initMachine :: rest := by
  obtain ⟨rest, -, hcases⟩ := step_next_cases h
  obtain ⟨hn, -⟩ | rfl | ⟨-, rfl⟩ | rfl | ⟨kind, code, -, rfl⟩ | ⟨ha, -, -⟩ | ⟨image, -, -, ht⟩ | ⟨-, -, rfl⟩ |
    ⟨-, -, rfl⟩ := hcases
  · cases (step_halted hh hn).symm.trans h
    exact .inl hh
  · exact .inl ((executorObservesStop_frame _).1.trans hh)
  · obtain ⟨-, hk, -⟩ := tickTurn_frame s rest
    exact .inl (hk.trans hh)
  · obtain ⟨-, hk, -⟩ := tickObservesStop_frame s rest
    exact .inl (hk.trans hh)
  · obtain ⟨-, hk, -⟩ := (keyEvent_frame s rest kind code).2.lifecycle (by decide)
    exact .inl (hk.trans hh)
  · exact .inr ⟨rest, ha⟩
  · obtain ⟨-, hk, -⟩ := (loadImage_frame ht).lifecycle (by decide)
    exact .inl (hk.trans hh)
  · exact .inl hh
  · exact .inl hh

/-- Settles O9: the fatal fault, then the idle turn of the executor, then the turns of every agent. -/
theorem fetchBeyondMemoryHaltsTheExecutor : Obligations.FetchBeyondMemoryHaltsTheExecutor := by
  refine ⟨fun s rest ⟨ha, hh, hw⟩ hn hpc => ?_, fun s rest => step_halted, fun s t => step_keeps_halt⟩
  rw [step_executor hn, executorTurn_ready (s := s.setAgenda rest) ha hh hw,
    instructionStep_beyond (s := s.setAgenda rest) hpc]
  exact ⟨_, rfl, rfl, Bool.or_true _, Bool.or_true _, rfl, rfl, rfl, rfl, by constructor <;> simp [Report.pcAfter]⟩

end Sys2Proof.Machine
end

section
/-! The bounds of a data access (20_memory.md R66): the four instructions that use memory at `index`. -/

namespace Sys2Proof.Machine

/-- The instructions that use memory at `index`, with the number of bytes each uses (R186, R202). -/
def AccessesData (i : Instr) (n : Nat) : Prop :=
  (∃ x, i = .bcd x ∧ n = 3) ∨ (∃ x, i = .storeRegs x ∧ n = x.toNat + 1) ∨
    (∃ x, i = .loadRegs x ∧ n = x.toNat + 1) ∨ ∃ x y m, i = .drw x y m ∧ n = m.toNat

/-- A sprite drawn reports nothing. -/
@[simp] theorem State.drawSprite_reports (s : State) (x y : Nibble) (sprite : List Byte) :
    (s.drawSprite x y sprite).reports = s.reports := by
  rw [State.drawSprite_eq]
  split <;> rfl

@[simp] theorem State.drawSprite_pc (s : State) (x y : Nibble) (sprite : List Byte) :
    (s.drawSprite x y sprite).pc = s.pc + 2 := by
  rw [State.drawSprite_eq]
  rfl

/-- A data access is a report where its bytes reach beyond memory, and makes none elsewhere (R66). -/
theorem exec_dataAccess_cases {i : Instr} {n : Nat} (s : State) (hi : AccessesData i n) :
    ((1 ≤ n ∧ s.index.toNat + n > 4096) ∧
      exec i s = .next (s.raise (.memBounds s.pc (encode i) s.index n))) ∨
    (¬(1 ≤ n ∧ s.index.toNat + n > 4096) ∧
      ∃ t, exec i s = .next t ∧ t.reports = s.reports ∧ t.pc = s.pc + 2) := by
  obtain ⟨x, rfl, rfl⟩ | ⟨x, rfl, rfl⟩ | ⟨x, rfl, rfl⟩ | ⟨x, y, m, rfl, rfl⟩ := hi
  · obtain ⟨hgt, he⟩ | ⟨hle, m, he, -⟩ := exec_bcd_cases s x
    · exact .inl ⟨⟨by omega, hgt⟩, he⟩
    · exact .inr ⟨by omega, _, he, rfl, rfl⟩
  · obtain ⟨hgt, he⟩ | ⟨hle, m, he, -⟩ := exec_storeRegs_cases s x
    · exact .inl ⟨⟨by omega, hgt⟩, he⟩
    · exact .inr ⟨fun ⟨_, hgt⟩ => absurd hle (Nat.not_le.mpr hgt), _, he, rfl, rfl⟩
  · obtain ⟨hgt, he⟩ | ⟨hle, v, he, -⟩ := exec_loadRegs_cases s x
    · exact .inl ⟨⟨by omega, hgt⟩, he⟩
    · exact .inr ⟨fun ⟨_, hgt⟩ => absurd hle (Nat.not_le.mpr hgt), _, he, rfl, rfl⟩
  · obtain ⟨h0, hgt, he⟩ | ⟨h0, he⟩ | ⟨-, hle, sprite, -, -, he⟩ := exec_drw_cases s x y m
    · exact .inl ⟨⟨by omega, hgt⟩, he⟩
    · exact .inr ⟨by omega, _, he, by simp, by simp⟩
    · exact .inr ⟨by omega, _, he, by simp, by simp⟩

/-- Settles O30: the two cases of a data access exclude each other. -/
theorem dataAccessReportsExactlyOutOfBounds : Obligations.DataAccessReportsExactlyOutOfBounds := by
  intro i n s t hi ht
  obtain ⟨hb, he⟩ | ⟨hb, u, he, hr, hp⟩ := exec_dataAccess_cases s hi
  · obtain ⟨u, hu, hshape⟩ := reportsOnly_of he rfl rfl
    cases hu.symm.trans ht
    exact ⟨fun _ => hshape, fun h => absurd hb h⟩
  · cases he.symm.trans ht
    exact ⟨fun h => absurd h hb, fun _ => ⟨hr, hp⟩⟩

end Sys2Proof.Machine
end

section
/-! The instruction at `pc` (20_memory.md R63), and code stored over the next one (R78, 70_reset_and_hazards.md R295). -/

namespace Sys2Proof.Machine

/-- A word read is its two bytes, the high one first (R63). -/
theorem State.readByte_of_readWord {s : State} {a : Nat} {w : Word} (h : s.readWord a = some w) :
    s.readByte a = some (highByte w) ∧ s.readByte (a + 1) = some (lowByte w) := by
  unfold State.readWord at h
  split at h
  · next hi lo h1 h2 =>
    injection h with h
    simp [← h, h1, h2]
  · cases h

/-- The word of two bytes decodes to what the bytes decode to. -/
theorem decodeWord_of_decode {hi lo : Byte} {more : List Byte} {i : Instr}
    (h : decode (hi :: lo :: more) = .ok (i, more)) : decodeWord (wordOfBytes hi lo) = .ok i := by
  simp only [decode] at h
  split at h
  · next j hj =>
    cases h
    exact hj
  · cases h

/-- Where the executor is about to run a word that decodes, the step is the instruction (R120). -/
theorem step_of_decodeWord {s : State} {w : Word} {rest : List Turn} {i : Instr} (h : s.AboutToRun w rest)
    (hd : decodeWord w = .ok i) : step s = exec i (s.setAgenda rest) := by
  obtain ⟨j, hj, hs⟩ | ⟨e, he, -⟩ := step_aboutToRun h
  · cases hj.symm.trans hd
    exact hs
  · cases he.symm.trans hd

/-- The step on two bytes that decode (R63, R120). -/
theorem step_of_decode {s : State} {hi lo : Byte} {rest : List Turn} {i : Instr} {more : List Byte}
    (hr : s.ReadyToFetch) (hn : s.ExecutorNext rest) (hp : s.pc.toNat ≤ 4094)
    (h1 : s.readByte s.pc.toNat = some hi) (h2 : s.readByte (s.pc.toNat + 1) = some lo)
    (hd : decode (hi :: lo :: more) = .ok (i, more)) : step s = exec i (s.setAgenda rest) :=
  step_of_decodeWord ⟨hr, hn, hp, by simpa using h1, by simpa using h2⟩ (decodeWord_of_decode hd)

theorem decodeWord_encode_storeRegs (x : Nibble) : decodeWord (encode (.storeRegs x)) = .ok (.storeRegs x) := by
  rw [encode, decodeWord_familyF (fieldOP_formatI _ _ _), fieldX_formatI, fieldNN_formatI]
  rfl

/-- `FX55` inside memory leaves `V[k]` at `index + k`, and the executor as ready as it was (R184). -/
theorem exec_storeRegs_inside (s : State) (x : Nibble) (h : s.index.toNat + (x.toNat + 1) ≤ 4096) :
    ∃ t, exec (.storeRegs x) s = .next t ∧ t.pc = s.pc + 2 ∧ (s.ReadyToFetch → t.ReadyToFetch) ∧
      ∀ k : Nibble, k.toNat ≤ x.toNat → t.readByte (s.index.toNat + k.toNat) = some (s.reg k) := by
  obtain ⟨hgt, -⟩ | ⟨-, m, he, -, hin, -⟩ := exec_storeRegs_cases s x
  · exact absurd h (Nat.not_le.mpr hgt)
  · exact ⟨_, he, rfl, id, fun k hk => (hin k.toNat (Nat.lt_succ_of_le hk)).trans (s.regBlock_get x k hk)⟩

/-- Settles O31: `pc + 2` is the address of V[j], so the next fetch reads V[j] and V[j + 1]. -/
theorem storedCodeIsFetchedNext : Obligations.StoredCodeIsFetchedNext := by
  intro x j s i rest hrun hb hj hjx hd
  obtain ⟨t, he, hpc, hready, hbytes⟩ := exec_storeRegs_inside (s.setAgenda rest) x hb
  refine ⟨t, (step_of_decodeWord hrun (decodeWord_encode_storeRegs x)).trans he, hpc, fun rest' hn => ?_⟩
  have hj1 : (j + 1).toNat = j.toNat + 1 := by bv_omega
  have hpc' : t.pc.toNat = s.index.toNat + j.toNat := by
    rw [hpc, State.setAgenda_pc]
    bv_omega
  have hlo := hbytes (j + 1) (by omega)
  rw [hj1, ← Nat.add_assoc] at hlo
  refine step_of_decode (hready hrun.1) hn (by omega) ?_ ?_ hd
  · rw [hpc']
    exact hbytes j (by omega)
  · rw [hpc']
    exact hlo

end Sys2Proof.Machine
end

section
/-! The writer of `delayTimer` (20_memory.md R75, 10_state.md R31). -/

namespace Sys2Proof.Machine

@[simp] theorem State.wakeStep_delayTimer (s : State) (x : Nibble) : (s.wakeStep x).delayTimer = s.delayTimer := by
  unfold State.wakeStep
  split <;> rfl

/-- A turn of the executor that changes `delayTimer` is an `FX15` (R31). -/
theorem executorTurn_delayTimer {s t : State} (h : s.executorTurn = .next t) (hne : t.delayTimer ≠ s.delayTimer) :
    s.ReadyToFetch ∧ s.pc.toNat ≤ 4094 ∧
      ∃ x, s.readWord s.pc.toNat = some (encode (.ldDelay x)) ∧ t.delayTimer = s.reg x := by
  obtain ⟨-, he⟩ | ⟨ha, hh, hw, he⟩ | ⟨x, -, -, -, -, he⟩ | ⟨x, -, -, -, -, he⟩ := executorTurn_cases s
  · cases he.symm.trans h
    exact absurd rfl hne
  · obtain ⟨-, hs⟩ | ⟨hpc, w, hword, ⟨e, -, hs⟩ | ⟨i, hd, hs⟩⟩ := instructionStep_cases s
    · cases (he.trans hs).symm.trans h
      exact absurd rfl hne
    · cases (he.trans hs).symm.trans h
      exact absurd rfl hne
    · have hexec := (he.trans hs).symm.trans h
      obtain ⟨x, rfl⟩ := (exec_effect hexec).delayTimer hne
      rw [exec_ldDelay] at hexec
      cases hexec
      exact ⟨⟨ha, hh, hw⟩, hpc, x, by rw [hword, encode_of_decodeWord hd], rfl⟩
  · cases he.symm.trans h
    exact absurd rfl hne
  · cases he.symm.trans h
    exact absurd (s.wakeStep_delayTimer x) hne

theorem tickTurn_delayTimer_le (s : State) : s.tickTurn.delayTimer.toNat ≤ s.delayTimer.toNat := by
  cases h : s.tickActive with
  | true => simp [tickTurn_active h]
  | false => rw [tickTurn_ceased h]

theorem tickObservesStop_delayTimer (s : State) : s.tickObservesStop.delayTimer = s.delayTimer := by
  unfold State.tickObservesStop
  split <;> rfl

/-- Over a step that is not the executor's, `delayTimer` does not rise (R75). -/
theorem step_delayTimer_le_or_executor {s t : State} (h : step s = .next t) :
    t.delayTimer.toNat ≤ s.delayTimer.toNat ∨
      ∃ rest, s.ExecutorNext rest ∧ (s.setAgenda rest).executorTurn = .next t := by
  obtain ⟨rest, -, hcases⟩ := step_next_cases h
  obtain hexec | rfl | ⟨-, rfl⟩ | rfl | ⟨kind, code, -, rfl⟩ | ⟨-, -, rfl⟩ | ⟨image, -, -, ht⟩ | ⟨-, -, rfl⟩ |
    ⟨-, -, rfl⟩ := hcases
  · exact .inr ⟨rest, hexec⟩
  · exact .inl (congrArg BitVec.toNat ((executorObservesStop_frame _).2.delayTimer (by decide))).le
  · exact .inl (tickTurn_delayTimer_le (s.setAgenda rest))
  · exact .inl (congrArg BitVec.toNat (tickObservesStop_delayTimer _)).le
  · exact .inl (congrArg BitVec.toNat ((keyEvent_frame s rest kind code).2.delayTimer (by decide))).le
  · exact .inl (Nat.zero_le _)
  · exact .inl (congrArg BitVec.toNat ((loadImage_frame ht).delayTimer (by decide))).le
  · exact .inl le_rfl
  · exact .inl le_rfl

/-- Settles O52: the step is the executor's, and its turn an `FX15`. -/
theorem delayTimerRisesOnlyByAWrite : Obligations.DelayTimerRisesOnlyByAWrite := by
  intro s t h hlt
  obtain ⟨rest, hn, hturn⟩ := (step_delayTimer_le_or_executor h).resolve_left (Nat.not_le.mpr hlt)
  have hne : t.delayTimer ≠ s.delayTimer := fun e => Nat.ne_of_gt hlt (congrArg BitVec.toNat e)
  obtain ⟨hready, hpc, x, hword, hv⟩ := executorTurn_delayTimer hturn hne
  obtain ⟨h1, h2⟩ := State.readByte_of_readWord hword
  exact ⟨rest, x, ⟨hready, hn, hpc, h1, h2⟩, hv⟩

end Sys2Proof.Machine
end

section
/-! The encoder against the decoder (30_encoding.md R90, R92, R94, R95): the word of an instruction, its two bytes, and
the words the rows of the opcode table cover. -/

namespace Sys2Proof

/-! ## The word of an instruction decodes to it -/

theorem decodeWord_formatR_family8 (x y n : Nibble) :
    decodeWord (formatR 0x8#4 x y n) = decodeFamily8 x y n := by
  rw [decodeWord_family8 (fieldOP_formatR _ _ _ _), fieldX_formatR, fieldY_formatR, fieldN4_formatR]

theorem decodeWord_formatI_familyE (x : Nibble) (nn : Byte) :
    decodeWord (formatI 0xE#4 x nn) = decodeFamilyE x nn := by
  rw [decodeWord_familyE (fieldOP_formatI _ _ _), fieldX_formatI, fieldNN_formatI]

theorem decodeWord_formatI_familyF (x : Nibble) (nn : Byte) :
    decodeWord (formatI 0xF#4 x nn) = decodeFamilyF x nn := by
  rw [decodeWord_familyF (fieldOP_formatI _ _ _), fieldX_formatI, fieldNN_formatI]

/-- One case for each family; where a family has sub-operations, the sub-opcode of each selects it. -/
theorem decodeWord_encode (i : Instr) : decodeWord (encode i) = .ok i := by
  cases i with
  | cls | ret => rfl
  | jp nnn => rw [encode, decodeWord_family1 (fieldOP_formatA _ _), fieldNNN_formatA]
  | call nnn => rw [encode, decodeWord_family2 (fieldOP_formatA _ _), fieldNNN_formatA]
  | seImm x nn => rw [encode, decodeWord_family3 (fieldOP_formatI _ _ _), fieldX_formatI, fieldNN_formatI]
  | sneImm x nn => rw [encode, decodeWord_family4 (fieldOP_formatI _ _ _), fieldX_formatI, fieldNN_formatI]
  | seReg x y =>
    rw [encode, decodeWord_family5 (fieldOP_formatR _ _ _ _), if_pos (fieldN4_formatR _ _ _ _), fieldX_formatR,
      fieldY_formatR]
  | ldImm x nn => rw [encode, decodeWord_family6 (fieldOP_formatI _ _ _), fieldX_formatI, fieldNN_formatI]
  | addImm x nn => rw [encode, decodeWord_family7 (fieldOP_formatI _ _ _), fieldX_formatI, fieldNN_formatI]
  | ldReg x y | orReg x y | andReg x y | xorReg x y | addReg x y | subReg x y | shrReg x y | subnReg x y
  | shlReg x y => exact decodeWord_formatR_family8 x y _
  | sneReg x y =>
    rw [encode, decodeWord_family9 (fieldOP_formatR _ _ _ _), if_pos (fieldN4_formatR _ _ _ _), fieldX_formatR,
      fieldY_formatR]
  | ldIndex nnn => rw [encode, decodeWord_familyA (fieldOP_formatA _ _), fieldNNN_formatA]
  | jpV0 nnn => rw [encode, decodeWord_familyB (fieldOP_formatA _ _), fieldNNN_formatA]
  | rnd x nn => rw [encode, decodeWord_familyC (fieldOP_formatI _ _ _), fieldX_formatI, fieldNN_formatI]
  | drw x y n =>
    rw [encode, decodeWord_familyD (fieldOP_formatR _ _ _ _), fieldX_formatR, fieldY_formatR, fieldN4_formatR]
  | skp x | sknp x => exact decodeWord_formatI_familyE x _
  | ldFromDelay x | ldKey x | ldDelay x | ldSound x | addIndex x | ldFont x | bcd x | storeRegs x
  | loadRegs x => exact decodeWord_formatI_familyF x _

/-- The word that the first two bytes of a list make, if it decodes, is the list's first instruction (R63, R90). -/
theorem decode_of_decodeWord {hi lo : Byte} {rest : List Byte} {i : Instr}
    (h : decodeWord (wordOfBytes hi lo) = .ok i) : decode (hi :: lo :: rest) = .ok (i, rest) := by
  simp only [decode, h]

/-- Settles O1: the two bytes make the word again, and the word of each instruction decodes to it. -/
theorem decodeOfEncodedInstruction : Obligations.DecodeOfEncodedInstruction := by
  intro i rest
  have hword : wordOfBytes (highByte (encode i)) (lowByte (encode i)) = encode i := wordOfBytes_high_low _
  exact decode_of_decodeWord (by rw [hword, decodeWord_encode])

/-- Settles O2, family by family (`encode_of_decodeWord`). -/
theorem encodeOfDecodedWord : Obligations.EncodeOfDecodedWord := fun _ _ => encode_of_decodeWord

/-! ## The rows of the table -/

/-- The row of an instruction is a row of the table, and covers the word of the instruction (R94). -/
theorem tableRow (i : Instr) : Laws.TableRow.Statement i := by
  cases i with
  | cls => exact Laws.TableRow.cls
  | ret => exact Laws.TableRow.ret
  | jp nnn => exact Laws.TableRow.jp nnn
  | call nnn => exact Laws.TableRow.call nnn
  | seImm x nn => exact Laws.TableRow.seImm x nn
  | sneImm x nn => exact Laws.TableRow.sneImm x nn
  | seReg x y => exact Laws.TableRow.seReg x y
  | ldImm x nn => exact Laws.TableRow.ldImm x nn
  | addImm x nn => exact Laws.TableRow.addImm x nn
  | ldReg x y => exact Laws.TableRow.ldReg x y
  | orReg x y => exact Laws.TableRow.orReg x y
  | andReg x y => exact Laws.TableRow.andReg x y
  | xorReg x y => exact Laws.TableRow.xorReg x y
  | addReg x y => exact Laws.TableRow.addReg x y
  | subReg x y => exact Laws.TableRow.subReg x y
  | shrReg x y => exact Laws.TableRow.shrReg x y
  | subnReg x y => exact Laws.TableRow.subnReg x y
  | shlReg x y => exact Laws.TableRow.shlReg x y
  | sneReg x y => exact Laws.TableRow.sneReg x y
  | ldIndex nnn => exact Laws.TableRow.ldIndex nnn
  | jpV0 nnn => exact Laws.TableRow.jpV0 nnn
  | rnd x nn => exact Laws.TableRow.rnd x nn
  | drw x y n => exact Laws.TableRow.drw x y n
  | skp x => exact Laws.TableRow.skp x
  | sknp x => exact Laws.TableRow.sknp x
  | ldFromDelay x => exact Laws.TableRow.ldFromDelay x
  | ldKey x => exact Laws.TableRow.ldKey x
  | ldDelay x => exact Laws.TableRow.ldDelay x
  | ldSound x => exact Laws.TableRow.ldSound x
  | addIndex x => exact Laws.TableRow.addIndex x
  | ldFont x => exact Laws.TableRow.ldFont x
  | bcd x => exact Laws.TableRow.bcd x
  | storeRegs x => exact Laws.TableRow.storeRegs x
  | loadRegs x => exact Laws.TableRow.loadRegs x

theorem OpcodeRow.covers_iff (r : OpcodeRow) (w : Word) : r.covers w = true ↔ w &&& r.mask = r.pattern :=
  beq_iff_eq

/-- A word under the mask 0xFFFF is the pattern. -/
theorem eq_of_covers_FFFF {w p : Word} (h : (OpcodeRow.mk 0xFFFF#16 p).covers w = true) : w = p := by
  rwa [OpcodeRow.covers_iff, and_FFFF] at h

/-- A word under the mask 0xF000 has the family of the pattern. -/
theorem fieldOP_of_covers_F000 {w p : Word} (h : (OpcodeRow.mk 0xF000#16 p).covers w = true) :
    fieldOP w = fieldOP p := by
  obtain rfl : formatA (fieldOP w) 0#12 = p := (and_F000 w).symm.trans ((OpcodeRow.covers_iff _ w).mp h)
  exact (fieldOP_formatA _ _).symm

/-- A word under the mask 0xF00F has the family and the low nibble of the pattern. -/
theorem fields_of_covers_F00F {w p : Word} (h : (OpcodeRow.mk 0xF00F#16 p).covers w = true) :
    fieldOP w = fieldOP p ∧ fieldN4 w = fieldN4 p := by
  obtain rfl : formatR (fieldOP w) 0#4 0#4 (fieldN4 w) = p :=
    (and_F00F w).symm.trans ((OpcodeRow.covers_iff _ w).mp h)
  exact ⟨(fieldOP_formatR _ _ _ _).symm, (fieldN4_formatR _ _ _ _).symm⟩

/-- A word under the mask 0xF0FF has the family and the low byte of the pattern. -/
theorem fields_of_covers_F0FF {w p : Word} (h : (OpcodeRow.mk 0xF0FF#16 p).covers w = true) :
    fieldOP w = fieldOP p ∧ fieldNN w = fieldNN p := by
  obtain rfl : formatI (fieldOP w) 0#4 (fieldNN w) = p := (and_F0FF w).symm.trans ((OpcodeRow.covers_iff _ w).mp h)
  exact ⟨(fieldOP_formatI _ _ _).symm, (fieldNN_formatI _ _ _).symm⟩

/-- The fields a row fixes are those the decode procedure looks at (R94, R95). -/
theorem decodeWord_of_covers {i : Instr} {w : Word} (h : i.row.covers w = true) : ∃ j, decodeWord w = .ok j := by
  cases i with
  | cls | ret => exact ⟨_, congrArg decodeWord (eq_of_covers_FFFF h)⟩
  | jp _ => exact ⟨_, decodeWord_family1 (fieldOP_of_covers_F000 h)⟩
  | call _ => exact ⟨_, decodeWord_family2 (fieldOP_of_covers_F000 h)⟩
  | seImm _ _ => exact ⟨_, decodeWord_family3 (fieldOP_of_covers_F000 h)⟩
  | sneImm _ _ => exact ⟨_, decodeWord_family4 (fieldOP_of_covers_F000 h)⟩
  | seReg _ _ =>
    obtain ⟨hop, hn⟩ := fields_of_covers_F00F h
    exact ⟨_, (decodeWord_family5 hop).trans (if_pos hn)⟩
  | ldImm _ _ => exact ⟨_, decodeWord_family6 (fieldOP_of_covers_F000 h)⟩
  | addImm _ _ => exact ⟨_, decodeWord_family7 (fieldOP_of_covers_F000 h)⟩
  | ldReg _ _ | orReg _ _ | andReg _ _ | xorReg _ _ | addReg _ _ | subReg _ _ | shrReg _ _ | subnReg _ _
  | shlReg _ _ =>
    obtain ⟨hop, hn⟩ := fields_of_covers_F00F h
    exact ⟨_, (decodeWord_family8 hop).trans (congrArg (decodeFamily8 _ _) hn)⟩
  | sneReg _ _ =>
    obtain ⟨hop, hn⟩ := fields_of_covers_F00F h
    exact ⟨_, (decodeWord_family9 hop).trans (if_pos hn)⟩
  | ldIndex _ => exact ⟨_, decodeWord_familyA (fieldOP_of_covers_F000 h)⟩
  | jpV0 _ => exact ⟨_, decodeWord_familyB (fieldOP_of_covers_F000 h)⟩
  | rnd _ _ => exact ⟨_, decodeWord_familyC (fieldOP_of_covers_F000 h)⟩
  | drw _ _ _ => exact ⟨_, decodeWord_familyD (fieldOP_of_covers_F000 h)⟩
  | skp _ | sknp _ =>
    obtain ⟨hop, hnn⟩ := fields_of_covers_F0FF h
    exact ⟨_, (decodeWord_familyE hop).trans (congrArg (decodeFamilyE _) hnn)⟩
  | ldFromDelay _ | ldKey _ | ldDelay _ | ldSound _ | addIndex _ | ldFont _ | bcd _ | storeRegs _ | loadRegs _ =>
    obtain ⟨hop, hnn⟩ := fields_of_covers_F0FF h
    exact ⟨_, (decodeWord_familyF hop).trans (congrArg (decodeFamilyF _) hnn)⟩

/-- A word is well formed where the row of some instruction covers it. -/
theorem wordWellFormed_iff (w : Word) : wordWellFormed w = true ↔ ∃ i : Instr, i.row.covers w = true := by
  rw [wordWellFormed, List.any_eq_true]
  constructor
  · rintro ⟨r, hr, hw⟩
    obtain ⟨i, -, rfl⟩ := List.mem_map.mp hr
    exact ⟨i, hw⟩
  · rintro ⟨i, hw⟩
    exact ⟨i.row, (tableRow i).1, hw⟩

/-- The word is the encoding of what it decodes to, which that instruction's row covers. -/
theorem row_covers_of_decodeWord {w : Word} {i : Instr} (h : decodeWord w = .ok i) : i.row.covers w = true := by
  rw [← encode_of_decodeWord h]
  exact (tableRow i).2

/-- Settles O3: a covered word has the fields its instruction is selected by, and a word that decodes is an encoding. -/
theorem decoderAcceptsExactlyTheTable : Obligations.DecoderAcceptsExactlyTheTable := by
  intro w
  refine ⟨(wordWellFormed_iff w).trans ⟨?_, ?_⟩, fun i => row_covers_of_decodeWord⟩
  · rintro ⟨i, hw⟩
    exact decodeWord_of_covers hw
  · rintro ⟨i, hd⟩
    exact ⟨i, row_covers_of_decodeWord hd⟩

/-- The patterns of two rows differ in a bit that both masks fix. -/
def OpcodeRow.Conflict (r q : OpcodeRow) : Prop := r.pattern &&& q.mask ≠ q.pattern &&& r.mask

/-- Rows that conflict cover no word together. -/
theorem OpcodeRow.Conflict.disjoint {r q : OpcodeRow} (h : r.Conflict q) (w : Word) :
    ¬(r.covers w = true ∧ q.covers w = true) := by
  rintro ⟨hr, hq⟩
  rw [OpcodeRow.covers_iff] at hr hq
  apply h
  rw [← hr, ← hq, BitVec.and_assoc, BitVec.and_assoc, BitVec.and_comm r.mask]

theorem opcodeTable_conflict : opcodeTable.Pairwise OpcodeRow.Conflict := by
  unfold OpcodeRow.Conflict
  decide

/-- Settles O4: any two rows conflict. -/
theorem opcodeRowsArePairwiseDisjoint : Obligations.OpcodeRowsArePairwiseDisjoint :=
  ⟨rfl, opcodeTable_conflict.imp OpcodeRow.Conflict.disjoint⟩

/-- Settles O5: the decoder, run on the eleven words. -/
theorem sampleWordsDecodeAsWritten : Obligations.SampleWordsDecodeAsWritten :=
  ⟨rfl, rfl, rfl, rfl, rfl, rfl, rfl, rfl, rfl, rfl, rfl⟩

end Sys2Proof
end

section
/-! The invalid words (30_encoding.md R96, 40_dispatch_and_control.md R120): what the decoder answers for each class,
and the step that reports the word and passes over it. -/

namespace Sys2Proof

/-! ## The classes of R96 -/

theorem fieldOP_of_div {w : Word} {op : Nibble} (h : w.toNat / 4096 = op.toNat) : fieldOP w = op :=
  BitVec.eq_of_toNat_eq ((toNat_fieldOP w).trans h)

theorem decodeFamily0_error {w : Word} (hcls : w ≠ 0x00E0#16) (hret : w ≠ 0x00EE#16) :
    decodeFamily0 w = .error .unknownSubop := by
  rw [decodeFamily0, if_neg hcls, if_neg hret]

theorem decodeFamily8_error {x y n : Nibble} (h : n.toNat ∈ [8, 9, 0xA, 0xB, 0xC, 0xD, 0xF]) :
    decodeFamily8 x y n = .error .unknownSubop := by
  unfold decodeFamily8
  split
  case h_10 => rfl
  all_goals exact absurd h (by decide)

theorem decodeFamilyE_error {x : Nibble} {nn : Byte} (h : nn.toNat ∉ [0x9E, 0xA1]) :
    decodeFamilyE x nn = .error .unknownSubop := by
  unfold decodeFamilyE
  split
  case h_3 => rfl
  all_goals exact absurd (by decide) h

theorem decodeFamilyF_error {x : Nibble} {nn : Byte}
    (h : nn.toNat ∉ [0x07, 0x0A, 0x15, 0x18, 0x1E, 0x29, 0x33, 0x55, 0x65]) :
    decodeFamilyF x nn = .error .unknownSubop := by
  unfold decodeFamilyF
  split
  case h_10 => rfl
  all_goals exact absurd (by decide) h

/-- A low nibble other than 0 in the families 0x5 and 0x9. -/
theorem decodeWord_malformedLowNibble {w : Word} (hop : w.toNat / 4096 = 5 ∨ w.toNat / 4096 = 9)
    (hn : w.toNat % 16 ≠ 0) : decodeWord w = .error .malformedLowNibble := by
  have hn4 : fieldN4 w ≠ 0x0#4 := fun h => hn ((toNat_fieldN4 w).symm.trans (congrArg BitVec.toNat h))
  obtain h5 | h9 := hop
  · rw [decodeWord_family5 (fieldOP_of_div h5), if_neg hn4]
  · rw [decodeWord_family9 (fieldOP_of_div h9), if_neg hn4]

end Sys2Proof

namespace Sys2Proof.Machine

/-! ## The step -/

theorem reportInvalid_marks (e : InvalidWord) (pc w : Word) : (reportInvalid e pc w).marks = true := by
  cases e <;> rfl

theorem reportInvalid_fatal (e : InvalidWord) (pc w : Word) : (reportInvalid e pc w).fatal = false := by
  cases e <;> rfl

theorem reportInvalid_pcAfter (e : InvalidWord) (pc w : Word) : (reportInvalid e pc w).pcAfter pc = pc + 2 := by
  cases e <;> rfl

/-- Where the executor is about to run a word that does not decode, the step is its report, with `pc` past it (R120,
R252). -/
theorem step_of_decodeWord_error {s : State} {w : Word} {rest : List Turn} {e : InvalidWord} (h : s.AboutToRun w rest)
    (hd : decodeWord w = .error e) :
    ∃ t, step s = .next t ∧ t.reports = s.reports ++ [reportInvalid e s.pc w] ∧ t.faultMark = true ∧
      t.pc = s.pc + 2 ∧ t.agenda = rest ∧ Unchanged [.reports, .pc, .agenda] s t := by
  obtain ⟨i, hi, -⟩ | ⟨e', he, hs⟩ := step_aboutToRun h
  · cases hi.symm.trans hd
  · cases he.symm.trans hd
    refine ⟨_, hs, rfl, by simp [reportInvalid_marks], by simp [reportInvalid_pcAfter], rfl, ?_⟩
    constructor <;> simp [reportInvalid_fatal]

/-- Settles O6: each class of R96 is refused by name by its family's decoder, and the step is the report. -/
theorem invalidWordIsReportedAndSkipped : Obligations.InvalidWordIsReportedAndSkipped := by
  intro s w rest hrun
  refine ⟨fun hclass => step_of_decodeWord_error (e := .unknownSubop) hrun ?_, fun ⟨hop, hn⟩ =>
    step_of_decodeWord_error (e := .malformedLowNibble) hrun (decodeWord_malformedLowNibble hop hn)⟩
  obtain ⟨hop, hcls, hret⟩ | ⟨hop, hn⟩ | ⟨hop, hnn⟩ | ⟨hop, hnn⟩ := hclass
  · rw [decodeWord_family0 (fieldOP_of_div hop), decodeFamily0_error hcls hret]
  · rw [decodeWord_family8 (fieldOP_of_div hop), decodeFamily8_error (by rwa [toNat_fieldN4])]
  · rw [decodeWord_familyE (fieldOP_of_div hop), decodeFamilyE_error (by rwa [toNat_fieldNN])]
  · rw [decodeWord_familyF (fieldOP_of_div hop), decodeFamilyF_error (by rwa [toNat_fieldNN])]

end Sys2Proof.Machine
end

section
/-! Dispatch and control transfer (40_dispatch_and_control.md): the instruction a step runs, the jumps, the stack and
the four compare skips. -/

namespace Sys2Proof.Machine

/-! ## The instruction a step runs (R120) -/

/-- Settles O7: the two bytes at `pc` are the word the executor fetches. -/
theorem stepRunsTheDecodedInstruction : Obligations.StepRunsTheDecodedInstruction :=
  fun _ _ _ _ _ _ => step_of_decode

/-- A table word, laid out in two bytes, decodes to what the word decodes to (R63). -/
theorem decodeWord_of_decodeTableWord {nbits w : Nat} {i : Instr} (h : decodeTableWord nbits w = some i) :
    decodeWord (tableWord nbits w) = .ok i := by
  cases hd : decodeWord (tableWord nbits w) with
  | error e => simp [decodeTableWord, decode, hd] at h
  | ok j => simpa [decodeTableWord, decode, hd] using h

/-- Settles O8: the placed machine is about to run the placed word, and its agenda is empty already. -/
theorem placedWordRunsNext : Obligations.PlacedWordRunsNext := fun s nbits w _ h =>
  step_of_decodeWord (placeWord_aboutToRun s (tableWord nbits w)) (decodeWord_of_decodeTableWord h)

/-! ## The jumps (R122, R128) -/

/-- Settles O10. -/
theorem jumpSetsPc : Obligations.JumpSetsPc := by
  intro nnn s
  obtain ⟨t, he, hpc, hframe⟩ := movesOnlyPc_of (exec_jp s nnn)
  exact ⟨decodeWord_encode (.jp nnn), t, he, by rw [hpc, toNat_zext16], hframe⟩

/-- V0 plus NNN is a sum of natural numbers: 255 + 4095 is below 65536 (R128). -/
theorem toNat_indexedJump (b : Byte) (nnn : Addr) :
    (b.setWidth 16 + zext16 nnn).toNat = b.toNat + nnn.toNat := by
  rw [BitVec.toNat_add, toNat_zext16, BitVec.toNat_setWidth]
  omega

/-- Settles O11. -/
theorem indexedJumpAddsV0 : Obligations.IndexedJumpAddsV0 := by
  intro nnn s
  obtain ⟨t, he, hpc, hframe⟩ := movesOnlyPc_of (exec_jpV0 s nnn)
  refine ⟨decodeWord_encode (.jpV0 nnn), t, he, ?_, ?_, hframe⟩
  · rw [hpc, toNat_indexedJump]
  · rw [hpc]
    exact indexedJump_toNat_le _ _

/-! ## The stack (R121, R123) -/

/-- The entries after a push (R24). -/
theorem getElem_stack_set (stack : Vector Word 48) {n : Nat} (h : n < 48) (x : Word) (k : Fin 48) :
    (stack.set n x h)[k] = if k.val = n then x else stack[k] := by
  simp only [Fin.getElem_fin, Vector.getElem_set, eq_comm]

/-- `2NNN` on a stack that is not full (R123). -/
theorem exec_call_of_lt (nnn : Addr) {s : State} (h : s.stackSize.val < 48) :
    exec (.call nnn) s = .next ((s.setStack (s.stack.set s.stackSize.val (s.pc + 2) h)
      ⟨s.stackSize.val + 1, Nat.succ_lt_succ h⟩).setPc (zext16 nnn)) := by
  obtain ⟨hfull, -⟩ | ⟨_, he⟩ := exec_call_cases s nnn
  · exact absurd hfull h.ne
  · exact he

/-- `2NNN` on a full stack (R252). -/
theorem exec_call_full (nnn : Addr) {s : State} (h : s.stackSize.val = 48) :
    exec (.call nnn) s = .next (s.raise (.stackOverflow s.pc (encode (.call nnn)))) := by
  obtain ⟨-, he⟩ | ⟨hlt, -⟩ := exec_call_cases s nnn
  · exact he
  · exact absurd h hlt.ne

/-- `00EE` on a stack of `k + 1` entries (R121). -/
theorem exec_ret_of_eq_succ {s : State} {k : Fin 48} (h : s.stackSize.val = k.val + 1) :
    exec .ret s = .next ((s.setStack s.stack k.castSucc).setPc s.stack[k]) := by
  obtain ⟨hempty, -⟩ | ⟨j, hj, he⟩ := exec_ret_cases s
  · omega
  · obtain rfl : j = k := Fin.ext (by omega)
    exact he

/-- `00EE` on an empty stack (R252). -/
theorem exec_ret_empty {s : State} (h : s.stackSize.val = 0) :
    exec .ret s = .next (s.raise (.stackUnderflow s.pc (encode .ret))) := by
  obtain ⟨-, he⟩ | ⟨j, hj, -⟩ := exec_ret_cases s
  · exact he
  · omega

/-- The stack and `pc` replaced: nothing else changes. -/
theorem setStack_setPc_unchanged (s : State) (stack : Vector Word 48) (size : Fin 49) (target : Word) :
    Unchanged [.stack, .pc] s ((s.setStack stack size).setPc target) := by
  constructor <;> simp

/-- Settles O12: the push below 48 entries, the report at 48. -/
theorem callPushesTheReturnAddress : Obligations.CallPushesTheReturnAddress := by
  refine fun nnn s => ⟨decodeWord_encode (.call nnn), fun hlt => ?_, fun hfull => ?_⟩
  · exact ⟨_, exec_call_of_lt nnn hlt, rfl, getElem_stack_set s.stack hlt (s.pc + 2), toNat_zext16 nnn,
      setStack_setPc_unchanged s _ _ _⟩
  · exact reportsOnly_of (exec_call_full nnn hfull) rfl rfl

/-- Settles O13: the pop of an entry, the report on the empty stack. -/
theorem returnPopsIntoPc : Obligations.ReturnPopsIntoPc := by
  refine fun s => ⟨decodeWord_encode .ret, fun k hk => ?_, fun hempty => ?_⟩
  · exact ⟨_, exec_ret_of_eq_succ hk, rfl, rfl, rfl, setStack_setPc_unchanged s _ _ _⟩
  · exact reportsOnly_of (exec_ret_empty hempty) rfl rfl

/-- Settles O14: `00EE` pops the entry at the old `stackSize`, which `2NNN` has pushed. -/
theorem callThenReturnComesBack : Obligations.CallThenReturnComesBack := by
  intro nnn s hlt
  obtain ⟨-, hcall, -⟩ := callPushesTheReturnAddress nnn s
  obtain ⟨t, ht, hsize, hstack, -, hframe⟩ := hcall hlt
  obtain ⟨-, hret, -⟩ := returnPopsIntoPc t
  obtain ⟨u, hu, hpc, husize, hustack, huframe⟩ := hret ⟨s.stackSize.val, hlt⟩ hsize
  refine ⟨t, u, ht, hu, ?_, Fin.ext husize, fun k hk => ?_, (hframe.trans huframe).mono (by simp)⟩
  · rw [hpc, hstack, if_pos rfl]
  · rw [hustack, hstack, if_neg hk.ne]

/-! ## The compare skips (R124 to R127) -/

/-- The families 0x5 and 0x9 with a low nibble other than 0 (R96). -/
theorem decodeWord_formatR_malformed {op n : Nibble} (x y : Nibble) (hop : op.toNat = 5 ∨ op.toNat = 9)
    (hn : n ≠ 0#4) : decodeWord (formatR op x y n) = .error .malformedLowNibble := by
  have hn0 : n.toNat ≠ 0 := fun h => hn (BitVec.eq_of_toNat_eq h)
  apply decodeWord_malformedLowNibble <;> rw [toNat_formatR] <;> omega

/-- A skip where two bytes are equal compares them as numbers. -/
theorem skip_beq (a b : Byte) (p q : Word) :
    (if a == b then p else q) = if a.toNat = b.toNat then p else q := by
  simp only [beq_iff_eq, BitVec.toNat_inj]

/-- A skip where two bytes differ compares them as numbers. -/
theorem skip_bne (a b : Byte) (p q : Word) :
    (if a != b then p else q) = if a.toNat ≠ b.toNat then p else q := by
  simp only [bne_iff_ne, ne_eq, BitVec.toNat_inj]

/-- Settles O15: each skip's word, the malformed words, and the target of each skip. -/
theorem skipsCompareForEquality : Obligations.SkipsCompareForEquality := by
  intro x y nn s
  refine ⟨decodeWord_encode (.seImm x nn), decodeWord_encode (.sneImm x nn), decodeWord_encode (.seReg x y),
    decodeWord_encode (.sneReg x y), fun n hn => ⟨decodeWord_formatR_malformed x y (.inl rfl) hn,
      decodeWord_formatR_malformed x y (.inr rfl) hn⟩, ?_, ?_, ?_, ?_⟩
  · exact movesOnlyPc_of (by rw [exec_seImm, skip_beq])
  · exact movesOnlyPc_of (by rw [exec_sneImm, skip_bne])
  · exact movesOnlyPc_of (by rw [exec_seReg, skip_beq])
  · exact movesOnlyPc_of (by rw [exec_sneReg, skip_bne])

end Sys2Proof.Machine
end

section
/-! The register file and ALU instructions (41_register_alu.md): the model's results and flags as numbers, then each
instruction's word and its shape. -/

namespace Sys2Proof.Machine

/-! ## Results and flags as numbers (R150) -/

theorem toNat_flagByte (p : Prop) [Decidable p] : (flagByte (decide p)).toNat = if p then 1 else 0 := by
  by_cases h : p
  · rw [decide_eq_true h, if_pos h]; rfl
  · rw [decide_eq_false h, if_neg h]; rfl

/-- A difference modulo 256 is the remainder of the difference of integers (R158, R160). -/
theorem toNat_byte_sub (a b : Byte) : (a - b).toNat = (((a.toNat : Int) - b.toNat) % 256).toNat := by
  rw [BitVec.toNat_sub]
  omega

/-- The bit `8XY6` shifts out is the remainder of the division by 2 (R159). -/
theorem toNat_shrFlag (b : Byte) : (shrFlag b).toNat = b.toNat % 2 := by
  rw [shrFlag, BitVec.toNat_and]
  exact Nat.and_one_is_mod b.toNat

/-- The bit `8XYE` shifts out is bit 7 (R161). -/
theorem toNat_shlFlag (b : Byte) : (shlFlag b).toNat = b.toNat / 128 := by
  rw [shlFlag, BitVec.toNat_ushiftRight, Nat.shiftRight_eq_div_pow]

/-! ## No flag (R151 to R156) -/

/-- Settles O16. -/
theorem loadImmediateSetsTheRegister : Obligations.LoadImmediateSetsTheRegister := fun x nn s =>
  ⟨decodeWord_encode (.ldImm x nn), writesRegister_of (exec_ldImm s x nn) rfl⟩

/-- Settles O17: the sum of bytes wraps at 256. -/
theorem addImmediateWrapsWithoutFlag : Obligations.AddImmediateWrapsWithoutFlag := fun x nn s =>
  ⟨decodeWord_encode (.addImm x nn), writesRegister_of (exec_addImm s x nn) (BitVec.toNat_add _ _)⟩

/-- Settles O18: each logical operation on bytes is the one on numbers. -/
theorem copyAndLogicLeaveTheFlag : Obligations.CopyAndLogicLeaveTheFlag := by
  intro x y s
  refine ⟨decodeWord_encode (.ldReg x y), decodeWord_encode (.orReg x y), decodeWord_encode (.andReg x y),
    decodeWord_encode (.xorReg x y), ?_, ?_, ?_, ?_⟩
  · exact writesRegister_of (exec_ldReg s x y) rfl
  · exact writesRegister_of (exec_orReg s x y) (BitVec.toNat_or _ _)
  · exact writesRegister_of (exec_andReg s x y) (BitVec.toNat_and _ _)
  · exact writesRegister_of (exec_xorReg s x y) (BitVec.toNat_xor _ _)

/-! ## The flag last (R157 to R161) -/

/-- Settles O19. -/
theorem addSetsCarry : Obligations.AddSetsCarry := fun x y s =>
  ⟨decodeWord_encode (.addReg x y),
    writesRegisterAndFlag_of (exec_addReg s x y) (BitVec.toNat_add _ _) (toNat_flagByte _)⟩

/-- Settles O20. -/
theorem subtractSetsNoBorrow : Obligations.SubtractSetsNoBorrow := fun x y s =>
  ⟨decodeWord_encode (.subReg x y),
    writesRegisterAndFlag_of (exec_subReg s x y) (toNat_byte_sub _ _) (toNat_flagByte _)⟩

/-- Settles O21: O20's arithmetic with the operands exchanged. -/
theorem reverseSubtractSetsNoBorrow : Obligations.ReverseSubtractSetsNoBorrow := fun x y s =>
  ⟨decodeWord_encode (.subnReg x y),
    writesRegisterAndFlag_of (exec_subnReg s x y) (toNat_byte_sub _ _) (toNat_flagByte _)⟩

/-- Settles O22: a shift by one divides or doubles the number. -/
theorem shiftsMoveTheOtherRegister : Obligations.ShiftsMoveTheOtherRegister := by
  intro x y s
  refine ⟨decodeWord_encode (.shrReg x y), decodeWord_encode (.shlReg x y), ?_, ?_⟩
  · refine writesRegisterAndFlag_of (exec_shrReg s x y) ?_ (toNat_shrFlag _)
    rw [BitVec.toNat_ushiftRight, Nat.shiftRight_eq_div_pow, pow_one]
  · refine writesRegisterAndFlag_of (exec_shlReg s x y) ?_ (toNat_shlFlag _)
    rw [BitVec.toNat_shiftLeft, Nat.shiftLeft_eq, pow_one]

/-! ## The draw (R162) -/

/-- Settles O24: whatever `Config.rand` answers, it is masked. -/
theorem randomByteIsMasked : Obligations.RandomByteIsMasked := by
  intro x nn s
  have hx : (s.countDraw.finish x (Config.rand s.draws &&& nn)).reg x = Config.rand s.draws &&& nn := by simp
  refine ⟨decodeWord_encode (.rnd x nn), _, exec_rnd s x nn, ?_, fun k hk => ?_, rfl, fun y hy => ?_, rfl, ?_⟩
  · rw [hx, BitVec.toNat_and]
  · rw [hx, BitVec.getLsbD_and, hk, Bool.and_false]
  · simp [List.ne_of_not_mem_cons hy]
  · constructor <;> simp

end Sys2Proof.Machine
end

section
/-! Index register and memory (42_index_memory.md): the instructions that set `index`, the decimal digits, and the
register block stored and loaded at `index`. Each data access is split once, on the bounds check of R66. -/

namespace Sys2Proof.Machine

/-! ## The index register (R180 to R182) -/

/-- An instruction that sets `index` and nothing else. -/
theorem setsIndex_of {i : Instr} {s : State} {a : Word} {value : Nat}
    (h : exec i s = .next ((s.setIndex a).setPc (s.pc + 2))) (ha : a.toNat = value) :
    ∃ t, exec i s = .next t ∧ t.index.toNat = value ∧ t.pc = s.pc + 2 ∧ Unchanged [.index, .pc] s t :=
  ⟨_, h, ha, rfl, by constructor <;> simp⟩

/-- The sum of `FX1E` wraps at 16 bits (R181). -/
theorem toNat_add_setWidth (a : Word) (b : Byte) : (a + b.setWidth 16).toNat = (a.toNat + b.toNat) % 65536 := by
  rw [BitVec.toNat_add, BitVec.toNat_setWidth_of_le (by decide)]

/-- The address of a glyph is a product of natural numbers: 255 * 5 is below 65536 (R182). -/
theorem toNat_glyphAddress (b : Byte) : (b.setWidth 16 * 5#16).toNat = b.toNat * 5 := by
  rw [BitVec.toNat_mul, BitVec.toNat_setWidth_of_le (by decide), BitVec.toNat_ofNat]
  omega

/-- Settles O25: the three new values of `index` as numbers. -/
theorem indexInstructionsSetIndex : Obligations.IndexInstructionsSetIndex := fun nnn x s =>
  ⟨decodeWord_encode (.ldIndex nnn), decodeWord_encode (.addIndex x), decodeWord_encode (.ldFont x),
    setsIndex_of (exec_ldIndex s nnn) (toNat_zext16 nnn),
    setsIndex_of (exec_addIndex s x) (toNat_add_setWidth _ _),
    setsIndex_of (exec_ldFont s x) (toNat_glyphAddress _)⟩

/-! ## The decimal digits (R183) -/

/-- The digits of a byte, hundreds first, as the numbers they are. -/
theorem bcdDigits_eq (b : Byte) : ∃ h d o : Byte, bcdDigits b = [h, d, o] ∧
    h.toNat = b.toNat / 100 ∧ d.toNat = b.toNat / 10 % 10 ∧ o.toNat = b.toNat % 10 := by
  refine ⟨_, _, _, rfl, ?_, ?_, ?_⟩ <;> rw [BitVec.toNat_ofNat] <;> omega

/-- Settles O26: inside memory the block stored at `index` is the three digits. -/
theorem bcdStoresTheDecimalDigits : Obligations.BcdStoresTheDecimalDigits := by
  intro x s
  refine ⟨decodeWord_encode (.bcd x), ?_⟩
  obtain ⟨hgt, he⟩ | ⟨hle, m, he, -, hin, hout⟩ := exec_bcd_cases s x
  · exact ⟨fun h => absurd hgt h.not_gt, fun _ => reportsOnly_of he rfl rfl⟩
  · refine ⟨fun _ => ?_, fun h => absurd hle h.not_ge⟩
    obtain ⟨h, d, o, hdigits, hh, hd, ho⟩ := bcdDigits_eq (s.reg x)
    rw [hdigits] at hin
    exact ⟨_, h, d, o, he, hin 0 (by decide), hin 1 (by decide), hin 2 (by decide), hh, hd, ho, hout, rfl,
      by constructor <;> simp⟩

/-! ## The register block (R184, R185) -/

/-- `index` does not wrap where the block lies inside memory (D9, R66). -/
theorem toNat_index_add_blockLength {a : Word} {x : Nibble} (h : a.toNat + blockLength x ≤ 4096) :
    (a + BitVec.ofNat 16 (blockLength x)).toNat = a.toNat + blockLength x := by
  rw [BitVec.toNat_add, BitVec.toNat_ofNat]
  omega

/-- Settles O27: inside memory the block stored at `index` is V0..VX. -/
theorem storeRegistersWritesTheBlock : Obligations.StoreRegistersWritesTheBlock := by
  intro x s
  refine ⟨decodeWord_encode (.storeRegs x), ?_⟩
  obtain ⟨hgt, he⟩ | ⟨hle, m, he, -, hin, hout⟩ := exec_storeRegs_cases s x
  · exact ⟨fun h => absurd hgt h.not_gt, fun _ => reportsOnly_of he rfl rfl⟩
  · refine ⟨fun _ => ?_, fun h => absurd hle h.not_ge⟩
    exact ⟨_, he, fun k hk => (hin k.toNat (Nat.lt_succ_of_le hk)).trans (s.regBlock_get x k hk), hout,
      toNat_index_add_blockLength hle, rfl, by constructor <;> simp⟩

/-- Settles O28: inside memory the block at `index` is loaded into V0..VX. -/
theorem loadRegistersReadsTheBlock : Obligations.LoadRegistersReadsTheBlock := by
  intro x s
  refine ⟨decodeWord_encode (.loadRegs x), ?_⟩
  obtain ⟨hgt, he⟩ | ⟨hle, v, he, hin, hout⟩ := exec_loadRegs_cases s x
  · exact ⟨fun h => absurd hgt h.not_gt, fun _ => reportsOnly_of he rfl rfl⟩
  · refine ⟨fun _ => ?_, fun h => absurd hle h.not_ge⟩
    exact ⟨_, he, hin, hout, toNat_index_add_blockLength hle, rfl, by constructor <;> simp⟩

/-- Settles O29: the byte at `index + k` is V[k] after the store (O27), and what the load puts in V[k] (O28). -/
theorem storeThenLoadRestoresTheRegisters : Obligations.StoreThenLoadRestoresTheRegisters := by
  intro x s v hb
  obtain ⟨-, hstore, -⟩ := storeRegistersWritesTheBlock x s
  obtain ⟨t, ht, hstored, -, htindex, -⟩ := hstore hb
  obtain ⟨-, hload, -⟩ := loadRegistersReadsTheBlock x ((t.setRegs v).setIndex s.index)
  obtain ⟨u, hu, hloaded, -, huindex, -⟩ := hload hb
  refine ⟨t, u, ht, hu, fun k hk => ?_, htindex, BitVec.eq_of_toNat_eq (huindex.trans htindex.symm)⟩
  exact Option.some.inj ((hloaded k hk).symm.trans (hstored k hk))

end Sys2Proof.Machine
end

section
/-! The display (43_display.md). A sprite row is a byte to invert at each of the eight byte columns; read as pixels it
is `spriteBit`. The rows of a sprite fall on different display rows, so each meets the display as it was before the
instruction. -/

namespace Sys2Proof.Machine

/-! ## Pixels and byte columns (R200) -/

theorem byteColOf_eq_iff (m n : Nat) : byteColOf m = byteColOf n ↔ m % 8 = n % 8 := by
  simp only [byteColOf, Fin.mk.injEq]

/-- The pixel column `8 * c + j` lies in byte column `c`. -/
theorem byteColOf_column (c : Fin 8) {j : Nat} (hj : j < 8) : byteColOf ((8 * c.val + j) / 8) = c :=
  Fin.ext (by simp only [byteColOf]; omega)

/-- The second byte column of a sprite row is not the first. -/
theorem byteColOf_succ_ne (n : Nat) : byteColOf (n + 1) ≠ byteColOf n := by
  rw [ne_eq, byteColOf_eq_iff]
  omega

/-- A byte is not 0 exactly where a bit of it, counted from the left, is 1. -/
theorem byte_ne_zero_iff (b : Byte) : b ≠ 0#8 ↔ ∃ j < 8, b.getLsbD (7 - j) = true := by
  constructor
  · intro h
    by_contra hall
    refine h (BitVec.eq_of_getLsbD_eq fun i hi => ?_)
    have hbit : b.getLsbD (7 - (7 - i)) ≠ true := fun e => hall ⟨7 - i, by omega, e⟩
    rw [show 7 - (7 - i) = i by omega] at hbit
    simpa using hbit
  · rintro ⟨j, -, hj⟩ rfl
    simp at hj

/-- Bit `j` from the left of byte column `e` is the pixel at column `8 * e + j`. -/
theorem exists_column_iff (P : Fin 8 → Nat → Prop) :
    (∃ px : Fin 64, P (byteColOf (px.val / 8)) (px.val % 8)) ↔ ∃ e, ∃ j < 8, P e j := by
  constructor
  · rintro ⟨px, h⟩
    exact ⟨_, _, Nat.mod_lt _ (by decide), h⟩
  · rintro ⟨e, j, hj, h⟩
    refine ⟨⟨8 * e.val + j, by omega⟩, ?_⟩
    rwa [byteColOf_column e hj, show (8 * e.val + j) % 8 = j by omega]

/-- Two displays with the same pixels are the same. -/
theorem Display.ext_pixel {d e : Display} (h : ∀ px r, Display.pixel d px r = Display.pixel e px r) : d = e := by
  refine Display.ext_byte fun r c => BitVec.eq_of_getLsbD_eq fun i hi => ?_
  have hpx := h ⟨8 * c.val + (7 - i), by omega⟩ r
  have hbit : 7 - (8 * c.val + (7 - i)) % 8 = i := by omega
  simpa only [Display.pixel, byteColOf_column c (by omega : 7 - i < 8), hbit] using hpx

/-! ## One sprite row (R203) -/

/-- The byte that BlitRow inverts at byte column `e`. -/
def spriteByte (b : Byte) (x : Nat) (e : Fin 8) : Byte :=
  if e = byteColOf (x / 8) then b >>> (x % 8)
  else if e = byteColOf (x / 8 + 1) then b <<< (8 - x % 8)
  else 0#8

@[simp] theorem spriteByte_first (b : Byte) (x : Nat) : spriteByte b x (byteColOf (x / 8)) = b >>> (x % 8) :=
  if_pos rfl

@[simp] theorem spriteByte_second (b : Byte) (x : Nat) :
    spriteByte b x (byteColOf (x / 8 + 1)) = b <<< (8 - x % 8) := by
  rw [spriteByte, if_neg (byteColOf_succ_ne _), if_pos rfl]

theorem spriteByte_elsewhere (b : Byte) {x : Nat} {e : Fin 8} (h0 : e ≠ byteColOf (x / 8))
    (h1 : e ≠ byteColOf (x / 8 + 1)) : spriteByte b x e = 0#8 := by
  rw [spriteByte, if_neg h0, if_neg h1]

theorem byte_blitRow (d : Display) (r q : Fin 32) (x : Nat) (b : Byte) (e : Fin 8) :
    Display.byte (blitRow d r x b).1 q e =
      if q = r then Display.byte d q e ^^^ spriteByte b x e else Display.byte d q e := by
  rw [blitRow_byte]
  by_cases hq : q = r
  · by_cases h0 : e = byteColOf (x / 8)
    · simp [hq, h0]
    · by_cases h1 : e = byteColOf (x / 8 + 1)
      · by_cases hs : x % 8 = 0 <;> simp [hq, h1, hs, byteColOf_succ_ne]
      · simp [hq, h0, h1, spriteByte_elsewhere b h0 h1]
  · simp [hq]

/-- A sprite row inverts nothing beyond its two byte columns. -/
theorem exists_spriteByte_iff (f : Fin 8 → Byte) (b : Byte) (x : Nat) :
    (∃ e, f e &&& spriteByte b x e ≠ 0#8) ↔ f (byteColOf (x / 8)) &&& b >>> (x % 8) ≠ 0#8 ∨
      f (byteColOf (x / 8 + 1)) &&& b <<< (8 - x % 8) ≠ 0#8 := by
  constructor
  · rintro ⟨e, he⟩
    by_cases h0 : e = byteColOf (x / 8)
    · exact .inl (by simpa [h0] using he)
    · by_cases h1 : e = byteColOf (x / 8 + 1)
      · exact .inr (by simpa [h1] using he)
      · simp [spriteByte_elsewhere b h0 h1] at he
  · rintro (h | h)
    · exact ⟨_, (spriteByte_first b x).symm ▸ h⟩
    · exact ⟨_, (spriteByte_second b x).symm ▸ h⟩

/-- BlitRow answers whether it inverts a bit that was set. -/
theorem blitRow_flag (d : Display) (r : Fin 32) (x : Nat) (b : Byte) :
    (blitRow d r x b).2 = true ↔ ∃ e, Display.byte d r e &&& spriteByte b x e ≠ 0#8 := by
  have hc1 : byteColOf ((byteColOf (x / 8)).val + 1) = byteColOf (x / 8 + 1) := by
    simp [byteColOf, Nat.mod_add_mod]
  rw [exists_spriteByte_iff]
  by_cases hs : x % 8 = 0
  · simp [blitRow, hs]
  · simp [blitRow, hs, hc1, BitVec.or_eq_zero_iff, imp_iff_not_or]

/-- The bits of the inverted bytes are the sprite's pixels: bit `j` from the left lands in the first byte where
`x % 8 + j < 8`, in the second elsewhere. -/
theorem getLsbD_spriteByte (b : Byte) (x : Nat) (px : Fin 64) :
    (spriteByte b x (byteColOf (px.val / 8))).getLsbD (7 - px.val % 8) = spriteBit b x px.val := by
  have hpx := px.isLt
  obtain ⟨j, hj⟩ : ∃ j, (px.val + 64 - x % 64) % 64 = j := ⟨_, rfl⟩
  simp only [spriteByte, spriteBit, byteColOf_eq_iff, hj]
  split
  · rw [BitVec.getLsbD_ushiftRight]
    by_cases h : j < 8
    · rw [show x % 8 + (7 - px.val % 8) = 7 - j by omega]
      simp [h]
    · rw [BitVec.getLsbD_of_ge _ _ (by omega)]
      simp [h]
  · split
    · have hlt : 7 - px.val % 8 < 8 := by omega
      rw [BitVec.getLsbD_shiftLeft]
      by_cases h : j < 8
      · have hin : ¬7 - px.val % 8 < 8 - x % 8 := by omega
        rw [show 7 - px.val % 8 - (8 - x % 8) = 7 - j by omega]
        simp [h, hlt, hin]
      · have hout : 7 - px.val % 8 < 8 - x % 8 := by omega
        simp [h, hout]
    · have hout : ¬j < 8 := by omega
      simp [hout]

theorem pixel_blitRow (d : Display) (r q : Fin 32) (x : Nat) (b : Byte) (px : Fin 64) :
    Display.pixel (blitRow d r x b).1 px q =
      (Display.pixel d px q ^^ (decide (q = r) && spriteBit b x px.val)) := by
  rw [Display.pixel, byte_blitRow, ← getLsbD_spriteByte]
  by_cases hq : q = r <;> simp [hq, Display.pixel]

theorem blitRow_flag_pixel (d : Display) (r : Fin 32) (x : Nat) (b : Byte) :
    (blitRow d r x b).2 = true ↔
      ∃ px : Fin 64, Display.pixel d px r = true ∧ spriteBit b x px.val = true := by
  simp only [blitRow_flag, byte_ne_zero_iff]
  rw [← exists_column_iff fun e j => (Display.byte d r e &&& spriteByte b x e).getLsbD (7 - j) = true]
  simp only [BitVec.getLsbD_and, Bool.and_eq_true, getLsbD_spriteByte, Display.pixel]

/-- Settles O33: the two readings of a sprite row as pixels. -/
theorem blitRowInvertsTheWrappedColumns : Obligations.BlitRowInvertsTheWrappedColumns := fun d r x b _ =>
  ⟨fun px q => pixel_blitRow d r q x b px, blitRow_flag_pixel d r x b⟩

/-- The left edge counts modulo 64. -/
@[simp] theorem spriteBit_mod (b : Byte) (x px : Nat) : spriteBit b (x % 64) px = spriteBit b x px := by
  simp only [spriteBit, Nat.mod_mod]

/-! ## The rows of a sprite (R202) -/

theorem flagByte_eq_one_iff (c : Bool) : flagByte c = 1#8 ↔ c = true := by
  cases c <;> decide

/-- Which row of a sprite with its top at row `y` falls on display row `r`, the rows wrapping at 32. -/
def spriteRowAt (y : Nat) (r : Fin 32) : Nat := (r.val + 32 - y % 32) % 32

theorem spriteRowAt_eq_iff (y : Nat) (r : Fin 32) {k : Nat} (hk : k < 32) :
    spriteRowAt y r = k ↔ r = rowOf (y + k) := by
  simp only [spriteRowAt, rowOf, Fin.ext_iff]
  omega

@[simp] theorem spriteRowAt_mod (y : Nat) (r : Fin 32) : spriteRowAt (y % 32) r = spriteRowAt y r := by
  simp only [spriteRowAt, Nat.mod_mod]

@[simp] theorem rowOf_mod_add (y k : Nat) : rowOf (y % 32 + k) = rowOf (y + k) := by
  simp only [rowOf, Nat.mod_add_mod]

/-- The last row is drawn last, and the flag is its flag. -/
theorem drawRows_concat (d : Display) (x y : Nat) (flag : Byte) (rows : List Byte) (b : Byte) :
    drawRows d x y flag (rows ++ [b]) =
      ((blitRow (drawRows d x y flag rows).1 (rowOf (y + rows.length)) x b).1,
        flagByte (blitRow (drawRows d x y flag rows).1 (rowOf (y + rows.length)) x b).2) := by
  induction rows generalizing d y flag with
  | nil => rfl
  | cons c rest ih =>
    simp only [List.cons_append, drawRows, ih, List.length_cons]
    rw [Nat.add_right_comm, Nat.add_assoc]

/-- No two rows of a sprite fall on one display row, so each pixel is inverted at most once. -/
theorem pixel_drawRows (d : Display) (x y : Nat) (flag : Byte) {rows : List Byte} (h : rows.length ≤ 32)
    (px : Fin 64) (r : Fin 32) :
    Display.pixel (drawRows d x y flag rows).1 px r = (Display.pixel d px r ^^
        (decide (spriteRowAt y r < rows.length) && spriteBit (rows.getD (spriteRowAt y r) 0#8) x px.val)) := by
  induction rows using List.reverseRecOn with
  | nil => simp [drawRows]
  | append_singleton rest b ih =>
    rw [List.length_append, List.length_singleton] at h ⊢
    rw [drawRows_concat, pixel_blitRow, ih (by omega)]
    simp only [← spriteRowAt_eq_iff y r (Nat.lt_of_succ_le h)]
    obtain hlt | heq | hgt := Nat.lt_trichotomy (spriteRowAt y r) rest.length
    · simp [hlt, hlt.ne, Nat.lt_succ_of_lt hlt]
    · simp [heq]
    · simp [hgt.not_gt, hgt.ne', (Nat.succ_le_of_lt hgt).not_gt]

/-- The flag of a sprite is the collision of its last row with the display before the instruction (D14). -/
theorem drawRows_flag (d : Display) (x y : Nat) (flag : Byte) {rows : List Byte} {m : Nat}
    (hl : rows.length = m + 1) (h : m < 32) :
    (drawRows d x y flag rows).2 = 1#8 ↔ ∃ px : Fin 64,
      Display.pixel d px (rowOf (y + m)) = true ∧ spriteBit (rows.getD m 0#8) x px.val = true := by
  obtain ⟨rest, b, rfl⟩ : ∃ rest b, rows = rest ++ [b] :=
    ⟨_, _, (List.dropLast_concat_getLast (List.ne_nil_of_length_eq_add_one hl)).symm⟩
  obtain rfl : rest.length = m := by simpa using hl
  have hrow : spriteRowAt y (rowOf (y + rest.length)) = rest.length := (spriteRowAt_eq_iff y _ h).mpr rfl
  rw [drawRows_concat, flagByte_eq_one_iff, blitRow_flag_pixel]
  simp [pixel_drawRows d x y flag (Nat.le_of_lt h), hrow]

/-! ## The instructions -/

/-- Settles O32. -/
theorem clearBlanksTheDisplay : Obligations.ClearBlanksTheDisplay := fun s =>
  ⟨decodeWord_encode .cls, _, exec_cls s, Display.byte_blank, rfl, rfl, by constructor <;> simp⟩

/-! ### The sprite at V[X], V[Y] (R202) -/

/-- The display and the flag after the rows of a sprite at column V[X] and row V[Y]. -/
def State.drawnRows (s : State) (x y : Nibble) (rows : List Byte) : Display × Byte :=
  drawRows s.display ((s.reg x).toNat % 64) ((s.reg y).toNat % 32) (s.reg 0xF#4) rows

theorem State.pixel_drawnRows (s : State) (x y : Nibble) {rows : List Byte} (h : rows.length ≤ 32) (px : Fin 64)
    (r : Fin 32) : Display.pixel (s.drawnRows x y rows).1 px r = (s.pixel px r ^^
      (decide (spriteRowAt (s.reg y).toNat r < rows.length) &&
        spriteBit (rows.getD (spriteRowAt (s.reg y).toNat r) 0#8) (s.reg x).toNat px.val)) := by
  rw [State.drawnRows, pixel_drawRows _ _ _ _ h, spriteRowAt_mod, spriteBit_mod, State.pixel]

theorem State.drawnRows_flag (s : State) (x y : Nibble) {rows : List Byte} {m : Nat} (hl : rows.length = m + 1)
    (h : m < 32) : (s.drawnRows x y rows).2 = 1#8 ↔ ∃ px : Fin 64,
      s.pixel px (rowOf ((s.reg y).toNat + m)) = true ∧
        spriteBit (rows.getD m 0#8) (s.reg x).toNat px.val = true := by
  rw [State.drawnRows, drawRows_flag _ _ _ _ hl h, rowOf_mod_add]
  simp only [spriteBit_mod, State.pixel]

/-- `DXYN` with a row and inside memory (R202). -/
theorem exec_drw_inside {n : Nibble} (x y : Nibble) {s : State} (hn : 1 ≤ n.toNat)
    (hb : s.index.toNat + n.toNat ≤ 4096) : ∃ rows, rows.length = n.toNat ∧
      (∀ k, k < n.toNat → s.readByte (s.index.toNat + k) = some (rows.getD k 0#8)) ∧
      exec (.drw x y n) s = .next (((s.setDisplay (s.drawnRows x y rows).1).setReg 0xF#4
        (s.drawnRows x y rows).2).fbUpdate.setPc (s.pc + 2)) := by
  obtain ⟨-, hgt, -⟩ | ⟨h0, -⟩ | ⟨-, -, rows, hl, hrows, he⟩ := exec_drw_cases s x y n
  · exact absurd hb hgt.not_ge
  · omega
  · have hne : rows ≠ [] := List.ne_nil_of_length_pos (by omega)
    refine ⟨rows, hl, fun k hk => ?_, ?_⟩
    · rw [hrows k hk, List.getElem?_eq_getElem (by omega), List.getD_eq_getElem _ _ (by omega)]
    · rw [he, State.drawSprite_eq]
      simp [hne, State.drawnRows]

/-- Settles O34: inside memory, the pixels and the flag of the rows drawn. -/
theorem drawInvertsEverySpritePixel : Obligations.DrawInvertsEverySpritePixel := by
  intro x y n s
  refine ⟨decodeWord_encode (.drw x y n), fun ⟨hn, hb⟩ => ?_, fun h0 => ?_, fun ⟨hn, hb⟩ => ?_⟩
  · obtain ⟨rows, hl, hrows, he⟩ := exec_drw_inside x y hn hb
    have hpixel := s.pixel_drawnRows x y (rows := rows) (by omega)
    have hflag := s.drawnRows_flag x y (rows := rows) (m := n.toNat - 1) (by omega) (by omega)
    rw [hl] at hpixel
    refine ⟨_, fun k => rows.getD k 0#8, he, hrows, hpixel, reg_flag_of_exec_drw he ?_ hb, ?_, fun z hz => ?_, rfl,
      rfl, ?_⟩
    · rintro rfl
      exact absurd hn (by decide)
    · rwa [State.setPc_reg, State.fbUpdate_reg, State.reg_setReg_same]
    · simp [List.ne_of_not_mem_cons hz]
    · constructor <;> simp
  · obtain ⟨h, -⟩ | ⟨-, he⟩ | ⟨h, -⟩ := exec_drw_cases s x y n
    · exact absurd h0 h
    · exact movesOnlyPc_of (he.trans (congrArg _ (s.drawSprite_nil x y)))
    · exact absurd h0 h
  · obtain ⟨-, -, he⟩ | ⟨h0, -⟩ | ⟨-, hle, -⟩ := exec_drw_cases s x y n
    · exact reportsOnly_of he rfl rfl
    · omega
    · exact absurd hle hb.not_ge

/-! ### The same sprite again (R202 (f)) -/

/-- Setting the registers back gives every register its value. -/
theorem State.setRegs_v_reg (s t : State) (x : Nibble) : (t.setRegs s.v).reg x = s.reg x := rfl

theorem State.setRegs_pixel (s : State) (v : Vector Byte 16) (px : Fin 64) (r : Fin 32) :
    (s.setRegs v).pixel px r = s.pixel px r := rfl

/-- Settles O35: the second draw reads the same rows and inverts the pixels of the first again. -/
theorem drawTwiceRestoresTheDisplay : Obligations.DrawTwiceRestoresTheDisplay := by
  intro x y n s last hn hb hlast
  obtain ⟨-, hdraw, -⟩ := drawInvertsEverySpritePixel x y n s
  obtain ⟨t, row, ht, hrow, htpixel, -, -, -, -, -, hframe⟩ := hdraw ⟨hn, hb⟩
  have hindex : (t.setRegs s.v).index = s.index := hframe.index (by decide)
  obtain ⟨-, hdraw', -⟩ := drawInvertsEverySpritePixel x y n (t.setRegs s.v)
  obtain ⟨u, row', hu, hrow', hupixel, -, hflag, -⟩ := hdraw' ⟨hn, by rwa [hindex]⟩
  simp only [hindex, State.setRegs_readByte, State.setRegs_v_reg, State.setRegs_pixel] at hrow' hupixel hflag
  have hsame : ∀ k, k < n.toNat → row' k = row k := fun k hk =>
    Option.some.inj (by rw [← hrow' k hk, hframe.memory (by decide), hrow k hk])
  refine ⟨t, u, ht, hu, Display.ext_pixel fun px r => ?_, hflag.trans (exists_congr fun px => ?_)⟩
  · change u.pixel px r = s.pixel px r
    rw [hupixel, htpixel]
    by_cases hk : (r.val + 32 - (s.reg y).toNat % 32) % 32 < n.toNat
    · simp [hk, hsame _ hk]
    · simp [hk]
  · have hk : ((rowOf ((s.reg y).toNat + (n.toNat - 1))).val + 32 - (s.reg y).toNat % 32) % 32 = n.toNat - 1 :=
      (spriteRowAt_eq_iff _ _ (by omega)).mpr rfl
    have hm : n.toNat - 1 < n.toNat := Nat.sub_lt hn Nat.one_pos
    have hrowlast : row (n.toNat - 1) = last := Option.some.inj ((hrow _ hm).symm.trans hlast)
    rw [hsame _ hm, hrowlast, htpixel, hk, hrowlast]
    refine and_congr_left fun hbit => ?_
    simp [hm, hbit]

/-! ## The framebuffer view (R205) -/

theorem State.framebuffer_eq_flatten (s : State) : s.framebuffer = s.display.flatten.toList := by
  simp only [State.framebuffer, List.flatMap_def, Vector.flatten, Vector.toList_mk, Array.toList_flatten,
    Array.toList_map, List.map_map]
  rfl

/-- Settles O36: row `r` of the flattened display begins at `8 * r`. -/
theorem framebufferListsRowsThenBytes : Obligations.FramebufferListsRowsThenBytes := by
  intro s
  rw [State.framebuffer_eq_flatten]
  refine ⟨Vector.length_toList, fun r c => ?_⟩
  have hrow : (8 * r.val + c.val) / 8 = r.val := by omega
  have hcol : (8 * r.val + c.val) % 8 = c.val := by omega
  rw [Vector.getElem?_toList, Vector.getElem?_eq_getElem (by omega), Vector.getElem_flatten]
  simp only [hrow, hcol, Display.byte, Fin.getElem_fin]

end Sys2Proof.Machine
end

section
/-! Timers and keys (44_timers_keys.md): the timer instructions and the tick, the two key skips, the key event, and the
three steps of a key wait with its release by a stop. -/

namespace Sys2Proof.Machine

/-! ## The timers (R220 to R223) -/

/-- Settles O37. -/
theorem timerInstructionsReadAndWriteTimers : Obligations.TimerInstructionsReadAndWriteTimers := fun x s =>
  ⟨decodeWord_encode (.ldFromDelay x), decodeWord_encode (.ldDelay x), decodeWord_encode (.ldSound x),
    writesRegister_of (exec_ldFromDelay s x) rfl,
    ⟨_, exec_ldDelay s x, rfl, rfl, by constructor <;> simp⟩,
    ⟨_, exec_ldSound s x, rfl, rfl, by constructor <;> simp⟩⟩

/-- One tick while Running: each timer one lower, the tick agent still active, nothing else changed (R223, R293). -/
theorem step_tick {s : State} {rest : List Turn} (hr : s.running = true) (hact : s.tickActive = true)
    (ha : s.agenda = .tick :: rest) :
    ∃ t, step s = .next t ∧ t.delayTimer.toNat = s.delayTimer.toNat - 1 ∧
      t.soundTimer.toNat = s.soundTimer.toNat - 1 ∧ t.agenda = rest ∧
      Unchanged [.delayTimer, .soundTimer, .agenda] s t := by
  refine ⟨(s.setAgenda rest).tickTurn, step_turn ha, ?_⟩
  rw [tickTurn_active (s := s.setAgenda rest) hact]
  exact ⟨toNat_countDown _, toNat_countDown _, rfl, by constructor <;> simp [hr, hact]⟩

/-- A run begins with its first step. -/
theorem run_succ_of_step {M : Host.Core} {s t : M.State} (h : M.step s = .next t) (n : Nat) :
    M.run (n + 1) s = M.run n t := by
  rw [Host.Core.run, h]

/-- Settles O38, by induction on the number of ticks: a tick keeps the machine Running and the tick agent active. -/
theorem ticksCountBothTimersDown : Obligations.TicksCountBothTimersDown := by
  intro n
  induction n with
  | zero => exact fun s rest _ _ ha => ⟨s, rfl, rfl, rfl, ha, by constructor <;> simp⟩
  | succ n ih =>
    intro s rest hr hact ha
    obtain ⟨t, hstep, hd, hs, hta, hframe⟩ := step_tick hr hact ha
    obtain ⟨hrun, -, -, htick⟩ := hframe.lifecycle (by decide)
    obtain ⟨u, hu, hud, hus, hua, hframe'⟩ := ih t rest (hrun.trans hr) (htick.trans hact) hta
    refine ⟨u, (run_succ_of_step (M := core) hstep n).trans hu, ?_, ?_, hua, (hframe.trans hframe').mono (by simp)⟩
    · rw [hud, hd, Nat.sub_sub, Nat.add_comm]
    · rw [hus, hs, Nat.sub_sub, Nat.add_comm]

/-! ## The key skips (R224 to R226) -/

/-- An instruction on the key named by the byte `b`: it moves `pc` where `b` names a key, and only reports where `b` is
above 15. -/
theorem keySkip_of_cases {i : Instr} {s : State} {b : Byte} {r : Report} {target : Fin 16 → Word}
    (h : (15 < b.toNat ∧ exec i s = .next (s.raise r)) ∨
      ∃ k : Fin 16, b.toNat = k.val ∧ exec i s = .next (s.setPc (target k)))
    (hm : r.marks = true) (hf : r.fatal = false) :
    (∀ k : Fin 16, b.toNat = k.val → MovesOnlyPc i s (target k)) ∧
      (15 < b.toNat → ReportsOnly i s r (r.pcAfter s.pc)) := by
  obtain ⟨hgt, he⟩ | ⟨j, hj, he⟩ := h
  · exact ⟨fun k hk => by omega, fun _ => reportsOnly_of he hm hf⟩
  · refine ⟨fun k hk => ?_, fun hgt => by omega⟩
    obtain rfl : j = k := Fin.ext (hj.symm.trans hk)
    exact movesOnlyPc_of he

/-- Settles O39. -/
theorem keySkipsTestTheKeyLevel : Obligations.KeySkipsTestTheKeyLevel := by
  intro x s
  obtain ⟨hskp, hskpRange⟩ := keySkip_of_cases (exec_skp_cases s x) rfl rfl
  obtain ⟨hsknp, hsknpRange⟩ := keySkip_of_cases (exec_sknp_cases s x) rfl rfl
  exact ⟨decodeWord_encode (.skp x), decodeWord_encode (.sknp x), fun k hk => ⟨hskp k hk, hsknp k hk⟩,
    fun hgt => ⟨hskpRange hgt, hsknpRange hgt⟩⟩

/-! ## The key event (R228) -/

/-- The flags after one flag is set (R29). -/
theorem getElem_keys_set (keys : Vector Bool 16) {n : Nat} (h : n < 16) (c : Bool) (k : Fin 16) :
    (keys.set n c h)[k] = if k.val = n then c else keys[k] := by
  simp only [Fin.getElem_fin, Vector.getElem_set, eq_comm]

/-- Settles O40: the event of the agenda, accepted or rejected by its code. -/
theorem keyEventUpdatesKeysOrIsRejected : Obligations.KeyEventUpdatesKeysOrIsRejected := by
  intro kind code s rest ha
  rw [step_turn ha, State.takeTurn]
  refine ⟨fun hle => ?_, fun hgt => ?_⟩
  · have hlt : code.toNat < 16 := Nat.lt_succ_of_le hle
    have hkey : (code.setWidth 4).toNat = code.toNat := (BitVec.toNat_setWidth 4 code).trans (Nat.mod_eq_of_lt hlt)
    rw [keyEvent_of_lt _ kind hlt]
    exact ⟨_, rfl, rfl, rfl, hkey, getElem_keys_set s.keys hlt _, rfl, rfl, rfl, by constructor <;> simp⟩
  · rw [keyEvent_of_ge _ kind (by omega)]
    exact ⟨_, rfl, rfl, Bool.or_false _, rfl, by constructor <;> simp⟩

/-! ## The key wait (R227, R229 to R231) -/

/-- While no valid event has come, a turn of the executor blocked in an `FX0A` is spent and changes nothing (R229). -/
theorem step_blocked {s : State} {x : Nibble} {rest : List Turn} (hw : s.wait = some x) (hk : s.keyWake = false)
    (hn : s.ExecutorNext rest) : step s = .next (s.setAgenda rest) := by
  rw [step_executor hn]
  obtain ⟨-, he⟩ | ⟨-, -, hnone, -⟩ | ⟨_, -, -, -, -, he⟩ | ⟨_, -, -, -, hwake, -⟩ :=
    executorTurn_cases (s.setAgenda rest)
  · exact he
  · cases hw.symm.trans hnone
  · exact he
  · cases hk.symm.trans hwake

/-- Settles O41: the equation of `FX0A`, and the blocked executor. -/
theorem keyWaitIssueBlocksTheExecutor : Obligations.KeyWaitIssueBlocksTheExecutor := fun x s =>
  ⟨decodeWord_encode (.ldKey x), _, exec_ldKey s x, rfl, rfl, by constructor <;> simp,
    fun _ => step_blocked rfl rfl⟩

/-- The wake step after a press (R230). -/
theorem wakeStep_pressed {s : State} (x : Nibble) (h : s.lastEvent.kind = .pressed) : s.wakeStep x =
    (((s.setKeyWake false).setReg x (s.lastEvent.key.setWidth 8)).setWait none).setPc (s.pc + 2) :=
  if_pos h

/-- The wake step after a release: the wait goes on (R230). -/
theorem wakeStep_released {s : State} (x : Nibble) (h : s.lastEvent.kind = .released) :
    s.wakeStep x = s.setKeyWake false :=
  if_neg (by simp [h])

/-- Where the waiting executor has been woken and is next, the step is the wake step (R230). -/
theorem step_wake {s : State} {x : Nibble} {rest : List Turn} (hw : s.wait = some x) (hk : s.keyWake = true)
    (ha : s.executorActive = true) (hh : s.execHalted = false) (hn : s.ExecutorNext rest) :
    step s = .next ((s.setAgenda rest).wakeStep x) := by
  rw [step_executor hn, executorTurn_wait (s := s.setAgenda rest) ha hh hw, State.setAgenda_keyWake, if_pos hk]

/-- Settles O42: the wake step, by the kind of the last event. -/
theorem keyWaitWakeStoresAPress : Obligations.KeyWaitWakeStoresAPress := by
  intro x s rest hw hk ha hh hn
  rw [step_wake hw hk ha hh hn]
  refine ⟨fun hkind => ?_, fun hkind => ?_⟩
  · rw [wakeStep_pressed (s := s.setAgenda rest) x hkind]
    refine ⟨_, rfl, ?_, fun y hy => ?_, rfl, rfl, rfl, rfl, by constructor <;> simp⟩
    · rw [State.setPc_reg, State.setWait_reg, State.reg_setReg_same, BitVec.toNat_setWidth_of_le (by decide)]
      rfl
    · simp [List.ne_of_not_mem_cons hy]
  · rw [wakeStep_released (s := s.setAgenda rest) x hkind]
    exact ⟨_, rfl, hw, rfl, rfl, by constructor <;> simp⟩

/-- Taking a turn off the agenda changes nothing else. -/
theorem setAgenda_unchanged (s : State) (rest : List Turn) : Unchanged [.agenda] s (s.setAgenda rest) := by
  constructor <;> simp

/-- Settles O44, from its three steps: the issue (O41), the press (O40), the wake (O42). -/
theorem keyWaitEndsWithThePressedKey : Obligations.KeyWaitEndsWithThePressedKey := by
  intro x code s rest hcode hrun
  have hstep := step_of_decodeWord hrun (decodeWord_encode (.ldKey x))
  have hf := setAgenda_unchanged s (.key .pressed code :: .executor :: rest)
  obtain ⟨⟨hactive, hhalted, -⟩, -⟩ := hrun
  obtain ⟨-, t, ht, htwait, -, hft, -⟩ := keyWaitIssueBlocksTheExecutor x (s.setAgenda _)
  obtain ⟨hpress, -⟩ := keyEventUpdatesKeysOrIsRejected .pressed code t _ (hft.agenda (by decide))
  obtain ⟨u, hu, -, hukind, hukey, -, huwake, huwait, huagenda, hfu⟩ := hpress hcode
  have hfsu := hf.trans (hft.trans hfu)
  obtain ⟨-, hhalt, hact, -⟩ := hfsu.lifecycle (by decide)
  obtain ⟨hwake, -⟩ := keyWaitWakeStoresAPress x u rest (huwait.trans htwait) huwake (hact.trans hactive)
    (hhalt.trans hhalted) (.inl huagenda)
  obtain ⟨w, hw, hwkey, hwregs, hwwait, -, hwpc, hwagenda, hfw⟩ := hwake hukind
  have hupc : u.pc = s.pc := hfsu.pc (by decide)
  exact ⟨t, u, w, hstep.trans ht, hu, hw, hft.pc (by decide), hupc, htwait, huwait.trans htwait, hwwait,
    hwkey.trans hukey, fun y hy => (hwregs y hy).trans (hfsu.regs (by decide) y), hupc ▸ hwpc, hwagenda,
    (hfsu.trans hfw).mono (by simp)⟩

/-- The executor ceases where it reads `running` = 0, and its wait is released (R231, R293). -/
theorem executorObservesStop_stopped {s : State} (h : s.running = false) :
    s.executorObservesStop = (s.setExecutorActive false).setWait none := by
  simp [State.executorObservesStop, h]

/-- Settles O43. -/
theorem stopReleasesTheKeyWait : Obligations.StopReleasesTheKeyWait := by
  intro x s rest _ hr ha
  rw [step_turn ha, State.takeTurn, executorObservesStop_stopped (s := s.setAgenda rest) hr]
  exact ⟨_, rfl, rfl, rfl, rfl, hr, rfl, rfl, rfl, by constructor <;> simp⟩

end Sys2Proof.Machine
end

section
/-! Exceptions (60_exceptions.md): the fault each instruction can take, what it leaves unchanged, and the report stream
with its fault mark over every step. -/

namespace Sys2Proof.Machine

/-! ## The faults of the instructions (R251, R252) -/

/-- The report of each instruction that can fault in `s`: the rows of R251 that an instruction delivers.
`exec_fault_of_reports_ne` ties it to `exec`. -/
inductive FaultOf (s : State) : Instr → Report → Prop where
  | stackUnderflow : FaultOf s .ret (.stackUnderflow s.pc (encode .ret))
  | stackOverflow (nnn : Addr) : FaultOf s (.call nnn) (.stackOverflow s.pc (encode (.call nnn)))
  | memBounds {i : Instr} {n : Nat} (hi : AccessesData i n) : FaultOf s i (.memBounds s.pc (encode i) s.index n)
  | keyIndexRange {i : Instr} (x : Nibble) (hi : i = .skp x ∨ i = .sknp x) :
      FaultOf s i (.keyIndexRange s.pc (encode i) (s.reg x))

section
variable {s t : State} {i : Instr} {r : Report}

theorem FaultOf.marks (h : FaultOf s i r) : r.marks = true := by
  cases h <;> rfl

theorem FaultOf.fatal (h : FaultOf s i r) : r.fatal = false := by
  cases h <;> rfl

/-- The two stack faults leave `pc` at the instruction (R252, D11). -/
theorem FaultOf.pcAfter_of_stack (h : FaultOf s i r) (hi : i = .ret ∨ ∃ nnn, i = .call nnn) :
    r.pcAfter s.pc = s.pc := by
  cases h with
  | stackUnderflow => rfl
  | stackOverflow nnn => rfl
  | memBounds ha => obtain rfl | ⟨nnn, rfl⟩ := hi <;> simp [AccessesData] at ha
  | keyIndexRange x hk => obtain rfl | ⟨nnn, rfl⟩ := hi <;> simp at hk

/-- Every other fault of an instruction passes over it (R252, D11). -/
theorem FaultOf.pcAfter_of_not_stack (h : FaultOf s i r) (hi : ¬(i = .ret ∨ ∃ nnn, i = .call nnn)) :
    r.pcAfter s.pc = s.pc + 2 := by
  cases h with
  | stackUnderflow => exact absurd (.inl rfl) hi
  | stackOverflow nnn => exact absurd (.inr ⟨nnn, rfl⟩) hi
  | memBounds ha => rfl
  | keyIndexRange x hk => rfl

/-- A data access that reports is the bounds fault (R66). -/
theorem exec_dataAccess_fault {n : Nat} (hi : AccessesData i n) (h : exec i s = .next t)
    (hne : t.reports ≠ s.reports) : ∃ r, FaultOf s i r ∧ t = s.raise r := by
  obtain ⟨-, he⟩ | ⟨-, u, he, hr, -⟩ := exec_dataAccess_cases s hi
  · cases he.symm.trans h
    exact ⟨_, .memBounds hi, rfl⟩
  · cases he.symm.trans h
    exact absurd hr hne

/-- An instruction that reports answers the state it began in with its fault taken, and with nothing else. -/
theorem exec_fault_of_reports_ne (h : exec i s = .next t) (hne : t.reports ≠ s.reports) :
    ∃ r, FaultOf s i r ∧ t = s.raise r := by
  obtain rfl | ⟨nnn, rfl⟩ | ⟨x, y, n, rfl⟩ | ⟨x, rfl | rfl | rfl | rfl | rfl⟩ := (exec_effect h).reports (.inl hne)
  · obtain ⟨-, he⟩ | ⟨k, -, he⟩ := exec_ret_cases s <;> cases he.symm.trans h
    · exact ⟨_, .stackUnderflow, rfl⟩
    · exact absurd rfl hne
  · obtain ⟨-, he⟩ | ⟨_, he⟩ := exec_call_cases s nnn <;> cases he.symm.trans h
    · exact ⟨_, .stackOverflow nnn, rfl⟩
    · exact absurd rfl hne
  · exact exec_dataAccess_fault (n := n.toNat) (by simp [AccessesData]) h hne
  · exact exec_dataAccess_fault (n := 3) (by simp [AccessesData]) h hne
  · exact exec_dataAccess_fault (n := x.toNat + 1) (by simp [AccessesData]) h hne
  · exact exec_dataAccess_fault (n := x.toNat + 1) (by simp [AccessesData]) h hne
  · obtain ⟨-, he⟩ | ⟨k, -, he⟩ := exec_skp_cases s x <;> cases he.symm.trans h
    · exact ⟨_, .keyIndexRange x (.inl rfl), rfl⟩
    · exact absurd rfl hne
  · obtain ⟨-, he⟩ | ⟨k, -, he⟩ := exec_sknp_cases s x <;> cases he.symm.trans h
    · exact ⟨_, .keyIndexRange x (.inr rfl), rfl⟩
    · exact absurd rfl hne

/-- A recoverable fault writes the stream with its mark and `pc`, and nothing else (R252, R254). -/
theorem raise_unchanged (s : State) (hf : r.fatal = false) : Unchanged [.reports, .pc] s (s.raise r) := by
  constructor <;> simp [hf]

end

/-- Settles O47: the state answered is the old one with the fault taken, and the reporting instructions are those of
`Effect.reports`. -/
theorem faultsArePrecise : Obligations.FaultsArePrecise := by
  intro i s t h hne
  have hi := (exec_effect h).reports (.inl hne)
  obtain ⟨r, hr, rfl⟩ := exec_fault_of_reports_ne h hne
  exact ⟨⟨r, rfl, hr.marks, hr.fatal⟩, by simp [hr.marks], raise_unchanged s hr.fatal, hr.pcAfter_of_stack,
    hr.pcAfter_of_not_stack, hi⟩

/-! ## The report stream over a step (R255, R267) -/

/-- From `s` to `t` the stream and the mark are as they were, or have taken one report (R11, R267). -/
def ReportsAtMostOnce (s t : State) : Prop :=
  (t.reports = s.reports ∧ t.faultMark = s.faultMark) ∨
    ∃ r, t.reports = s.reports ++ [r] ∧ t.faultMark = (s.faultMark || r.marks)

section
variable {s t : State}

theorem Effect.reportsAtMostOnce {i : Instr} (e : Effect s i t) : ReportsAtMostOnce s t := by
  cases e with
  | fault r hi hf hpc => exact .inr ⟨r, rfl, rfl⟩
  | _ => exact .inl ⟨rfl, rfl⟩

/-- One instruction step makes at most one report: the fetch bound, the decode or the instruction (R255). -/
theorem instructionStep_reportsAtMostOnce (h : s.instructionStep = .next t) : ReportsAtMostOnce s t := by
  obtain ⟨-, he⟩ | ⟨-, w, -, ⟨e, -, he⟩ | ⟨i, -, he⟩⟩ := instructionStep_cases s
  · cases he.symm.trans h
    exact .inr ⟨_, rfl, rfl⟩
  · cases he.symm.trans h
    exact .inr ⟨_, rfl, rfl⟩
  · exact (exec_effect (he.symm.trans h)).reportsAtMostOnce

/-- The wake step writes a register, `pc` and the wait, and nothing else (R230). -/
theorem wakeStep_frame (s : State) (x : Nibble) : Unchanged [.regs, .pc, .keyWait] s (s.wakeStep x) := by
  cases h : s.lastEvent.kind with
  | pressed => rw [wakeStep_pressed x h]; constructor <;> simp
  | released => rw [wakeStep_released x h]; constructor <;> simp

theorem executorTurn_reportsAtMostOnce (h : s.executorTurn = .next t) : ReportsAtMostOnce s t := by
  obtain ⟨-, he⟩ | ⟨-, -, -, he⟩ | ⟨x, -, -, -, -, he⟩ | ⟨x, -, -, -, -, he⟩ := executorTurn_cases s
  · cases he.symm.trans h
    exact .inl ⟨rfl, rfl⟩
  · exact instructionStep_reportsAtMostOnce (he.symm.trans h)
  · cases he.symm.trans h
    exact .inl ⟨rfl, rfl⟩
  · cases he.symm.trans h
    exact .inl ((wakeStep_frame s x).reports (by decide))

/-- A key event reports where its code is out of range, and only there (R228). -/
theorem keyEvent_reportsAtMostOnce (s : State) (kind : KeyKind) (code : Byte) :
    ReportsAtMostOnce s (s.keyEvent kind code) := by
  by_cases h : code.toNat < 16
  · rw [keyEvent_of_lt s kind h]
    exact .inl ⟨rfl, rfl⟩
  · rw [keyEvent_of_ge s kind h]
    exact .inr ⟨_, rfl, rfl⟩

/-- Over every step but an initialize the stream takes at most one report; an initialize empties it and keeps the mark
(R34, R267, R290). -/
theorem step_reports_cases (h : step s = .next t) :
    ReportsAtMostOnce s t ∨
      (t.reports = [] ∧ t.faultMark = s.faultMark ∧ ∃ rest, s.agenda = .initMachine :: rest) := by
  obtain ⟨rest, -, hcases⟩ := step_next_cases h
  obtain ⟨-, ht⟩ | rfl | ⟨-, rfl⟩ | rfl | ⟨kind, code, -, rfl⟩ | ⟨ha, -, rfl⟩ | ⟨image, -, -, ht⟩ | ⟨-, -, rfl⟩ |
    ⟨-, -, rfl⟩ := hcases
  · exact .inl (executorTurn_reportsAtMostOnce (s := s.setAgenda rest) ht)
  · obtain ⟨-, hframe⟩ := executorObservesStop_frame (s.setAgenda rest)
    exact .inl (.inl (hframe.reports (by decide)))
  · obtain ⟨-, -, -, hframe⟩ := tickTurn_frame s rest
    exact .inl (.inl (hframe.reports (by decide)))
  · obtain ⟨-, -, -, hframe⟩ := tickObservesStop_frame s rest
    exact .inl (.inl (hframe.reports (by decide)))
  · exact .inl (keyEvent_reportsAtMostOnce (s.setAgenda rest) kind code)
  · exact .inr ⟨rfl, rfl, rest, ha⟩
  · exact .inl (.inl ((loadImage_frame ht).reports (by decide)))
  · exact .inl (.inl ⟨rfl, rfl⟩)
  · exact .inl (.inl ⟨rfl, rfl⟩)

end

/-- Settles O48. -/
theorem atMostOneReportPerStep : Obligations.AtMostOneReportPerStep := by
  intro s t h
  obtain (⟨hr, -⟩ | ⟨r, hr, -⟩) | ⟨hr, -, hinit⟩ := step_reports_cases h
  · exact .inl hr
  · exact .inr (.inl ⟨r, hr⟩)
  · exact .inr (.inr ⟨hr, hinit⟩)

/-- Settles O49: a stream one report longer is the stream that took that report, since it is neither the old one nor
empty. -/
theorem faultMarkIsNeverCleared : Obligations.FaultMarkIsNeverCleared := by
  intro s t h
  obtain (⟨hr, hm⟩ | ⟨q, hr, hm⟩) | ⟨hr, hm, -⟩ := step_reports_cases h
  · exact ⟨hm.trans, fun r hlong => absurd (hr.symm.trans hlong) (by simp)⟩
  · refine ⟨fun hs => by simp [hm, hs], fun r hlong => ?_⟩
    obtain rfl : q = r := by simpa using hr.symm.trans hlong
    exact hm
  · exact ⟨hm.trans, fun r hlong => absurd (hr.symm.trans hlong) (by simp)⟩

end Sys2Proof.Machine
end

section
/-! Reset and the lifecycle (70_reset_and_hazards.md): how a step can end, the host's initialize, start and stop, and how
the executor and the tick agent cease after a stop. -/

namespace Sys2Proof.Machine

/-! ## The host's turns (R290, R291) -/

/-- Stopped: not Running, and neither agent has a step (R253, R291, R293). -/
theorem State.stopped_iff (s : State) : s.stopped = true ↔
    s.running = false ∧ (s.executorActive = false ∨ s.execHalted = true) ∧ s.tickActive = false := by
  simp [State.stopped, State.executorDone, and_assoc]

@[simp] theorem State.setAgenda_stopped (s : State) (rest : List Turn) : (s.setAgenda rest).stopped = s.stopped := rfl

section
variable {s : State} {rest : List Turn}

/-- On a Stopped machine with an initialize next, the step is the initialize (R290). -/
theorem step_initMachine (hs : s.stopped = true) (ha : s.agenda = .initMachine :: rest) :
    step s = .next (s.setAgenda rest).initMachine := by
  simp [step_turn ha, State.takeTurn, hs]

/-- On a Stopped machine with a start next, the step is the start (R291). -/
theorem step_start (hs : s.stopped = true) (ha : s.agenda = .start :: rest) :
    step s = .next (s.setAgenda rest).startMachine := by
  simp [step_turn ha, State.takeTurn, hs]

/-- On a Running machine with a stop next, the step is the stop (R291). -/
theorem step_stop (hr : s.running = true) (ha : s.agenda = .stop :: rest) :
    step s = .next (s.setAgenda rest).stopMachine := by
  simp [step_turn ha, State.takeTurn, hr]

/-- The host's turns that need a Stopped machine are refused on any other (D28). -/
theorem step_refused_of_not_stopped (image : List Byte) (hs : s.stopped = false)
    (ha : s.agenda = .initMachine :: rest ∨ s.agenda = .load image :: rest ∨ s.agenda = .start :: rest) :
    ∃ r, step s = .refused r := by
  obtain ha | ha | ha := ha <;> simp [step_turn ha, State.takeTurn, hs]

/-- A stop is refused while the machine is not Running (D28). -/
theorem step_stop_refused (hr : s.running = false) (ha : s.agenda = .stop :: rest) :
    step s = .refused .stopWhileNotRunning := by
  simp [step_turn ha, State.takeTurn, hr]

end

/-- Settles O55: every element is at its value of R39 after `State.initMachine`. -/
theorem initializeRestoresEveryElement : Obligations.InitializeRestoresEveryElement := fun _ _ hs ha =>
  ⟨_, step_initMachine hs ha, State.initMachine_atInitialValues _, rfl, rfl, rfl⟩

/-- Settles O56. -/
theorem startAndStopChangeRunningOnly : Obligations.StartAndStopChangeRunningOnly := fun _ _ =>
  ⟨fun hs ha => ⟨_, step_start hs ha, rfl, rfl, rfl, rfl, rfl, by constructor <;> simp [State.startMachine]⟩,
    fun hr ha => ⟨_, step_stop hr ha, rfl, rfl, rfl, rfl, rfl, by constructor <;> simp [State.stopMachine]⟩⟩

/-! ## How a step can end (R9, D28) -/

/-- An instruction step answers a next state, since every instruction does and every fault of the fetch is one. -/
theorem instructionStep_answers (s : State) : ∃ t, s.instructionStep = .next t := by
  obtain ⟨-, he⟩ | ⟨-, w, -, ⟨e, -, he⟩ | ⟨i, -, he⟩⟩ := instructionStep_cases s
  · exact ⟨_, he⟩
  · exact ⟨_, he⟩
  · rw [he]
    exact exec_answers i s

theorem executorTurn_answers (s : State) : ∃ t, s.executorTurn = .next t := by
  obtain ⟨-, he⟩ | ⟨-, -, -, he⟩ | ⟨x, -, -, -, -, he⟩ | ⟨x, -, -, -, -, he⟩ := executorTurn_cases s
  · exact ⟨_, he⟩
  · rw [he]
    exact instructionStep_answers s
  · exact ⟨_, he⟩
  · exact ⟨_, he⟩

theorem loadImage_answers (s : State) (image : List Byte) : ∃ t, s.loadImage image = .next t := by
  obtain ⟨-, m, he, -⟩ | ⟨-, he⟩ := loadImage_cases s image <;> exact ⟨_, he⟩

/-- After a stop the default turn is the executor's stop, where it is still active (R293). -/
theorem defaultTurn_executor {s : State} (hr : s.running = false) (hact : s.executorActive = true) :
    s.defaultTurn = .next s.executorObservesStop := by
  simp [State.defaultTurn, hr, hact]

/-- After a stop that the executor has seen, the default turn is the tick agent's stop (R293). -/
theorem defaultTurn_tick {s : State} (hr : s.running = false) (hact : s.executorActive = false) :
    s.defaultTurn = .next s.tickObservesStop := by
  simp [State.defaultTurn, hr, hact]

theorem defaultTurn_answers (s : State) : ∃ t, s.defaultTurn = .next t := by
  cases hr : s.running with
  | true =>
    rw [State.defaultTurn, if_pos hr]
    exact executorTurn_answers s
  | false =>
    cases hact : s.executorActive with
    | true => exact ⟨_, defaultTurn_executor hr hact⟩
    | false => exact ⟨_, defaultTurn_tick hr hact⟩

/-- Settles O46: the default turn and the agents' turns answer, and so does the host's turn where its guard holds. -/
theorem stepStopsOnlyOnHostMisuse : Obligations.StepStopsOnlyOnHostMisuse := by
  intro s
  cases ha : s.agenda with
  | nil => exact .inl (step_default ha ▸ defaultTurn_answers s)
  | cons turn rest =>
    cases turn with
    | executor => exact .inl (step_turn ha ▸ executorTurn_answers _)
    | executorObservesStop => exact .inl ⟨_, step_turn ha⟩
    | tick => exact .inl ⟨_, step_turn ha⟩
    | tickObservesStop => exact .inl ⟨_, step_turn ha⟩
    | key kind code => exact .inl ⟨_, step_turn ha⟩
    | initMachine =>
      cases hs : s.stopped with
      | true => exact .inl ⟨_, step_initMachine hs ha⟩
      | false =>
        exact .inr (.inl ⟨rest, [], rfl, .inl rfl, step_refused_of_not_stopped [] hs (.inl ha)⟩)
    | load image =>
      cases hs : s.stopped with
      | true => exact .inl (step_load hs ha ▸ loadImage_answers _ image)
      | false =>
        exact .inr (.inl ⟨rest, image, rfl, .inr (.inl rfl), step_refused_of_not_stopped image hs (.inr (.inl ha))⟩)
    | start =>
      cases hs : s.stopped with
      | true => exact .inl ⟨_, step_start hs ha⟩
      | false =>
        exact .inr (.inl ⟨rest, [], rfl, .inr (.inr rfl), step_refused_of_not_stopped [] hs (.inr (.inr ha))⟩)
    | stop =>
      cases hr : s.running with
      | true => exact .inl ⟨_, step_stop hr ha⟩
      | false => exact .inr (.inr ⟨rest, rfl, rfl, step_stop_refused hr ha⟩)

/-! ## The agents after a stop (R293) -/

/-- With `running` = 0 and no more input, the active executor ceases first and releases its wait. -/
theorem step_executorCeases {s : State} (hr : s.running = false) (ha : s.agenda = [])
    (hact : s.executorActive = true) : step s = .next ((s.setExecutorActive false).setWait none) := by
  rw [step_default ha, defaultTurn_executor hr hact, executorObservesStop_stopped hr]

/-- With `running` = 0, no more input and an executor that has ceased, the tick agent ceases. -/
theorem step_tickAgentCeases {s : State} (hr : s.running = false) (ha : s.agenda = [])
    (hact : s.executorActive = false) : step s = .next (s.setTickActive false) := by
  rw [step_default ha, defaultTurn_tick hr hact, tickObservesStop_stopped hr]

/-- The first clause of O57: an active executor ceases before the tick agent; beside one that has ceased, the tick agent
ceases at once and the second step changes nothing. -/
theorem agents_cease_in_two_steps {s : State} (hr : s.running = false) (ha : s.agenda = []) :
    ∃ t u : State, step s = .next t ∧ step t = .next u ∧ u.stopped = true ∧ u.running = s.running ∧
      u.execHalted = s.execHalted ∧ u.executorActive = false ∧ u.tickActive = false ∧
      (s.executorActive = true → u.wait = none) ∧ (s.executorActive = false → u.wait = s.wait) ∧
      u.keyWake = s.keyWake ∧ Unchanged [.keyWait, .lifecycle] s u := by
  cases hact : s.executorActive with
  | true =>
    exact ⟨_, _, step_executorCeases hr ha hact,
      step_tickAgentCeases (s := (s.setExecutorActive false).setWait none) hr ha rfl,
      (State.stopped_iff _).mpr ⟨hr, .inl rfl, rfl⟩, rfl, rfl, rfl, rfl, fun _ => rfl, (fun h => nomatch h), rfl,
      by constructor <;> simp⟩
  | false =>
    exact ⟨_, _, step_tickAgentCeases hr ha hact, step_tickAgentCeases (s := s.setTickActive false) hr ha hact,
      (State.stopped_iff _).mpr ⟨hr, .inl hact, rfl⟩, rfl, rfl, hact, rfl, (fun h => nomatch h), fun _ => rfl, rfl,
      by constructor <;> simp⟩

/-- A turn of the executor or of the tick agent on a Stopped machine with no wait: nothing, or an agent that has no step
is marked as ceased. -/
theorem takeTurn_of_stopped {s : State} (hs : s.stopped = true) (hw : s.wait = none) {turn : Turn}
    (ht : turn = .executor ∨ turn = .executorObservesStop ∨ turn = .tick ∨ turn = .tickObservesStop) :
    ∃ t, s.takeTurn turn = .next t ∧ t.stopped = true ∧ t.execHalted = s.execHalted ∧ t.agenda = s.agenda ∧
      Unchanged [.lifecycle] s t := by
  obtain ⟨hr, hexec, htick⟩ := s.stopped_iff.mp hs
  obtain rfl | rfl | rfl | rfl := ht <;> rw [State.takeTurn]
  · exact ⟨s, executorTurn_idle hexec, hs, rfl, rfl, by constructor <;> simp⟩
  · rw [executorObservesStop_stopped hr]
    exact ⟨_, rfl, (State.stopped_iff _).mpr ⟨hr, .inl rfl, htick⟩, rfl, rfl, by constructor <;> simp [hw]⟩
  · rw [tickTurn_ceased htick]
    exact ⟨s, rfl, hs, rfl, rfl, by constructor <;> simp⟩
  · rw [tickObservesStop_stopped hr]
    exact ⟨_, rfl, (State.stopped_iff _).mpr ⟨hr, hexec, rfl⟩, rfl, rfl, by constructor <;> simp⟩

/-- Settles O57: the two default turns, and the turns of the agents of a Stopped machine. -/
theorem agentsCeaseAfterStop : Obligations.AgentsCeaseAfterStop := by
  refine ⟨fun s => agents_cease_in_two_steps, fun s turn rest hs hw ha ht => ?_⟩
  obtain ⟨t, he, hst, hh, hag, hframe⟩ := takeTurn_of_stopped (s := s.setAgenda rest) hs hw ht
  exact ⟨t, (step_turn ha).trans he, hst, hh, hag, ((setAgenda_unchanged s rest).trans hframe).mono (by simp)⟩

/-- A tick with `running` = 0 counts the timers down where the tick agent is still active, and is its last (D33). -/
theorem tickTurn_after_stop {s : State} (hr : s.running = false) :
    s.tickTurn.delayTimer.toNat = (if s.tickActive = true then s.delayTimer.toNat - 1 else s.delayTimer.toNat) ∧
      s.tickTurn.soundTimer.toNat = (if s.tickActive = true then s.soundTimer.toNat - 1 else s.soundTimer.toNat) ∧
      s.tickTurn.tickActive = false ∧ s.tickTurn.agenda = s.agenda := by
  cases h : s.tickActive with
  | true => simp [tickTurn_active h, hr]
  | false => simp [tickTurn_ceased h, h]

/-- A tick of a tick agent that has ceased is spent and changes nothing (R293). -/
theorem step_tick_ceased {s : State} {rest : List Turn} (h : s.tickActive = false) (ha : s.agenda = .tick :: rest) :
    step s = .next (s.setAgenda rest) := by
  rw [step_turn ha, State.takeTurn, tickTurn_ceased (s := s.setAgenda rest) h]

/-- Settles O58: the second tick is of a tick agent that has ceased. -/
theorem atMostOneTickAfterStop : Obligations.AtMostOneTickAfterStop := by
  intro s rest hr ha
  obtain ⟨hdelay, hsound, hceased, hagenda⟩ := tickTurn_after_stop (s := s.setAgenda (.tick :: rest)) hr
  exact ⟨_, _, step_turn ha, step_tick_ceased hceased hagenda, hdelay, hsound, hceased, rfl, setAgenda_unchanged _ rest⟩

end Sys2Proof.Machine
end
